-- ==== Sys2Proof/Word.lean ====
section
/-! DEFINITION. The data the wire carries and the four reserved byte values (spec/00_scope.md R9, R11;
spec/30_encoding.md R90). -/

namespace Sys2Proof

/-- A byte: 8 bits, unsigned (R11). -/
abbrev Byte := BitVec 8

/-- The 16-bit frame-check value (R9). -/
abbrev Fcs := BitVec 16

/-- `TERMINATOR`, the frame boundary (R90). -/
abbrev terminator : Byte := 0xC0#8

/-- `ESCAPE`, the escape introducer (R90). -/
abbrev escape : Byte := 0xDB#8

/-- `ESCAPED_TERMINATOR`: after an `ESCAPE` it stands for a literal `TERMINATOR` (R90). -/
abbrev escapedTerminator : Byte := 0xDC#8

/-- `ESCAPED_ESCAPE`: after an `ESCAPE` it stands for a literal `ESCAPE` (R90). -/
abbrev escapedEscape : Byte := 0xDD#8

end Sys2Proof
end

