-- ==== Sys2Proof/Config.lean ====
section
/-! DEFINITION. The configuration record of spec/00_scope.md R8 and the values the spec leaves free.
The sizes and the checksum Type are plain data, carried by the State, so that every statement about a
state holds for every configuration (log 1).  What no plain datum can hold, and what the spec leaves
open at run time, is an uninterpreted constant: it has no body, and nothing can be proved of its value. -/

namespace Sys2Proof

/-- The configuration record (R8).  Constant from reset to the next reset; `crcUpdate` is
`Config.crcUpdate`, since the record is plain data. -/
structure Params where
  /-- `AW`: the ring holds `DEPTH = 2^AW` bytes. -/
  aw : Nat
  /-- `CW`: width of the completion counters. -/
  cw : Nat
  /-- `LW`: width of capacities, lengths, indices. -/
  lw : Nat
  /-- `NREQ`: requester slots per direction. -/
  nreq : Nat
  /-- `LOCK_TIMEOUT`, in `clk` ticks. -/
  lockTimeout : Nat
  /-- `SYNC_STAGES`: no rule depends on it. -/
  syncStages : Nat
  /-- `CHK_TYPE`: the Type value that means "checksum-protected". -/
  chkType : Byte
  /-- `crcInit`: the CRC16 collaborator's `init()`. -/
  crcInit : Fcs
  deriving DecidableEq, Repr

/-- `DEPTH = 2^AW` (R8). -/
def Params.depth (c : Params) : Nat := 2 ^ c.aw

/-- The constraints of R8's table. -/
def Params.wf (c : Params) : Bool :=
  decide (1 ≤ c.aw) && decide (c.depth < 2 ^ c.cw) && decide (2 ≤ c.lw) && decide (1 ≤ c.nreq)
    && decide (1 ≤ c.lockTimeout) && decide (2 ≤ c.syncStages)
    && c.chkType != terminator && c.chkType != escape

namespace Config

/-- FREE VALUE (log 2): the CRC16 collaborator's `update` for one byte.  R10: "The model must assume
nothing else of `crcUpdate`". -/
opaque crcUpdate : Fcs → Byte → Fcs

/-- FREE VALUE (log 2): `crcInit` of the sample configuration. -/
opaque sampleCrcInit : Fcs

/-- FREE VALUE (log 3): what ring cell `i` holds after the `epoch`-th reset, before any push writes it
(R21: "Reset value: unspecified"). -/
opaque ringPowerOn : (epoch i : Nat) → Byte

/-- FREE VALUE (log 20): what `PayRead i` returns when `HOST` holds no payload byte `i`; `n` is the
number of bytes emitted so far, so that no two reads share a value by construction. -/
opaque payloadPastEnd : (n i : Nat) → Byte

/-- DESIGN CHOICE (log 1): the configuration of `State.reset`.  The spec leaves every entry open; the
sizes and the checksum Type are those with which spec/95_test_vectors.md computes its vectors. -/
def sample : Params where
  aw := 4
  cw := 8
  lw := 8
  nreq := 2
  lockTimeout := 1
  syncStages := 2
  chkType := 0xA9#8
  crcInit := sampleCrcInit

end Config

end Sys2Proof
end

