-- ==== Sys2Proof/Syntax.lean ====
section
/-! DEFINITION. The operations of the block: one constructor of `Instr` per row of
spec/opcode_table.json (spec/30_encoding.md R104). -/

namespace Sys2Proof

/-- A direction: encode (transmit) or decode (receive) (spec/46_concurrency_guard.md R217). -/
inductive Dir where
  | tx
  | rx
  deriving DecidableEq, Repr

/-- The clock domains (spec/10_state.md R20). -/
inductive Domain where
  | write
  | host
  deriving DecidableEq, Repr

/-- Which of the two reset inputs `wrst_n`, `rst_n` are asserted (spec/70_reset_and_hazards.md R265,
R267). -/
inductive ResetLines where
  | both
  | writeOnly
  | hostOnly
  deriving DecidableEq, Repr

/-- The caller-held `DecodeState` as its three ports carry it: `type = some t` is `typeValid = true`
with `type = t`, `type = none` is `typeValid = false` (spec/30_encoding.md R100, R101). -/
structure DecodeState where
  typeValid : Bool
  type : Byte
  pending : Bool
  deriving DecidableEq, Repr

/-- One atomic step of an agent, one action of `HOST`, or one byte class of such a step: the rows of
spec/opcode_table.json in the table's order. -/
inductive Instr where
  /-- `INGEST b` (R121). -/
  | ingest (b : Byte)
  /-- `SLIP_ENC q, p` with `tx_cmd_len[q] = len` (R150, R151). -/
  | slipEnc (q len : Nat) (payload : List Byte)
  /-- `SMX_ENC q, t, p` (R180): posted, waits for the transmit lock (R217). -/
  | smxEnc (q : Nat) (t : Byte) (len : Nat) (payload : List Byte)
  /-- `SLIP_DEC q, cap` (R160, R161). -/
  | slipDec (q cap : Nat)
  /-- `SMX_DEC q, cap, stIn` (R195): posted, waits for the receive lock (R217). -/
  | smxDec (q cap : Nat) (stIn : DecodeState)
  /-- `INGEST` of `0xC0` (R91, R121). -/
  | ingestTerminator
  /-- `INGEST` of a byte other than `0xC0` (R91, R121). -/
  | ingestOther (b : Byte)
  /-- `R_DRAIN` popping `0xC0` (R162, R164, R165). -/
  | drainTerminator
  /-- `R_DRAIN` popping `0xDB` (R163). -/
  | drainEscape
  /-- `R_DRAIN` popping any other byte (R167). -/
  | drainOther (b : Byte)
  /-- `R_ESC` popping `0xDC` (R141, R166). -/
  | escEscapedTerminator
  /-- `R_ESC` popping `0xDD` (R141, R166). -/
  | escEscapedEscape
  /-- `R_ESC` popping any other byte (R141, R166). -/
  | escOther (f : Byte)
  /-- A payload or checksum byte `0xC0` in an encoder (R91, R140). -/
  | stuffTerminator
  /-- A payload or checksum byte `0xDB` in an encoder (R91, R140). -/
  | stuffEscape
  /-- Any other payload or checksum byte in an encoder (R91, R140). -/
  | stuffOther (p : Byte)
  /-- The Type byte of a SLIPMUX encoder (R91, R183). -/
  | typeRaw (t : Byte)
  /-- A Type equal to `CHK_TYPE`, in either direction (R182, R201). -/
  | typeChecksum (d : Dir) (t : Byte)
  /-- A Type other than `CHK_TYPE`, in either direction (R182, R201). -/
  | typePlain (d : Dir) (t : Byte)
  /-- Step `T_LEAD` (R152). -/
  | tLead
  /-- Step `T_TYPE` (R183). -/
  | tType
  /-- Step `T_PAY` (R153). -/
  | tPay
  /-- Step `T_PAY2` (R154). -/
  | tPay2
  /-- Step `T_CLO` (R184). -/
  | tClo
  /-- Step `T_CLO2` (R185). -/
  | tClo2
  /-- Step `T_CHI` (R186). -/
  | tChi
  /-- Step `T_CHI2` (R187). -/
  | tChi2
  /-- Step `T_TRAIL` (R155). -/
  | tTrail
  /-- Step `R_DRAIN` (R162). -/
  | rDrain
  /-- Step `R_ESC` (R166). -/
  | rEsc
  /-- `Push(b)` (R64). -/
  | push (b : Byte)
  /-- `Pop()` (R65). -/
  | pop
  /-- `SYN_W2R` with the choice `iw'`, `ic'` (R74). -/
  | synW2r (iw ic : Nat)
  /-- `SYN_R2W` with the choice `ir'` (R74). -/
  | synR2w (ir : Nat)
  /-- `SYN_FAULT` towards the domain that learns of the fault (R241). -/
  | synFault (target : Domain)
  /-- `LOCK_GRANT` to requester `q` of direction `d` (R217). -/
  | lockGrant (d : Dir) (q : Nat)
  /-- `LOCK_RELEASE` of direction `d` (R220). -/
  | lockRelease (d : Dir)
  /-- `LOCK_TIMEOUT` of requester `q` of direction `d` (R221, R222). -/
  | lockTimeout (d : Dir) (q : Nat)
  /-- `RESET` (R265). -/
  | reset (lines : ResetLines)
  deriving DecidableEq, Repr

end Sys2Proof
end

