-- ==== Sys2Proof/WellFormed.lean ====
section
/-! DEFINITION. Which operations exist under a configuration: the operand ranges of
spec/30_encoding.md R91, R100 and R101. -/

namespace Sys2Proof

/-- A requester index is below `NREQ` (R100). -/
def slotOk (c : Params) (q : Nat) : Bool := decide (q < c.nreq)

/-- A length, capacity or index fits its `LW` wires (R100). -/
def fitsLw (c : Params) (n : Nat) : Bool := decide (n < 2 ^ c.lw)

/-- The well-formed operations: the requester exists, the fields fit their ports, and a byte-class row
names a byte of its class. -/
def Instr.wf (c : Params) : Instr → Bool
  | .ingest _ => true
  | .slipEnc q len _ => slotOk c q && fitsLw c len
  | .smxEnc q _ len _ => slotOk c q && fitsLw c len
  | .slipDec q cap => slotOk c q && fitsLw c cap
  | .smxDec q cap _ => slotOk c q && fitsLw c cap
  | .ingestTerminator => true
  | .ingestOther b => b != terminator
  | .drainTerminator => true
  | .drainEscape => true
  | .drainOther b => b != terminator && b != escape
  | .escEscapedTerminator => true
  | .escEscapedEscape => true
  | .escOther f => f != escapedTerminator && f != escapedEscape
  | .stuffTerminator => true
  | .stuffEscape => true
  | .stuffOther p => p != terminator && p != escape
  | .typeRaw _ => true
  | .typeChecksum _ t => t == c.chkType
  | .typePlain _ t => t != c.chkType
  | .tLead => true
  | .tType => true
  | .tPay => true
  | .tPay2 => true
  | .tClo => true
  | .tClo2 => true
  | .tChi => true
  | .tChi2 => true
  | .tTrail => true
  | .rDrain => true
  | .rEsc => true
  | .push _ => true
  | .pop => true
  | .synW2r _ _ => true
  | .synR2w _ => true
  | .synFault _ => true
  | .lockGrant _ q => slotOk c q
  | .lockRelease _ => true
  | .lockTimeout _ q => slotOk c q
  | .reset _ => true

end Sys2Proof
end

