-- ==== Sys2Proof/Decode.lean ====
section
/-! DEFINITION. How an operation is selected (spec/30_encoding.md): what stands on a port of the block
or in the register that selects a step, the decoder from it, the encoder back, and the opcode table as
data.  "Encoding" here is the byte values on the wire and the select bits on the ports (R104); the
internal steps have none and are selected by name (log 6). -/

namespace Sys2Proof

/-- The formats of spec/opcode_table.json. -/
inductive Format where
  | ingestPort
  | txCommand
  | rxCommand
  | ingestByte
  | rxDrainByte
  | rxEscByte
  | txPayloadByte
  | txTypeByte
  | typeClass
  | txStep
  | rxStep
  | internalStep
  | noPort
  deriving DecidableEq, Repr

/-- The steps nothing but their enabling condition selects (R104), each with the free choice the step
relation gives it. -/
inductive InternalStep where
  | push (b : Byte)
  | pop
  | synW2r (iw ic : Nat)
  | synR2w (ir : Nat)
  | synFault (target : Domain)
  | lockGrant (d : Dir) (q : Nat)
  | lockRelease (d : Dir)
  | lockTimeout (d : Dir) (q : Nat)
  | reset (lines : ResetLines)
  deriving DecidableEq, Repr

/-- What the block is shown: the signals of one port, or the register value that selects a step, in the
fields the table's `source_fields` name. -/
inductive PortWord where
  /-- `in_valid`, `in_data` (R100). -/
  | ingestPort (inValid : Bool) (inData : Byte)
  /-- `tx_start[q]` with `tx_cmd_mode`, `tx_cmd_type`, `tx_cmd_len` and the payload behind `PayRead`
  (R101). -/
  | txCommand (q : Nat) (mode : BitVec 1) (type : Byte) (len : Nat) (payload : List Byte)
  /-- `rx_start[q]` with `rx_cmd_mode`, `rx_cmd_cap` and the `DecodeState` ports (R101). -/
  | rxCommand (q : Nat) (mode : BitVec 1) (cap : Nat) (st : DecodeState)
  /-- The byte presented to `INGEST` (R91). -/
  | ingestByte (b : Byte)
  /-- The byte popped in `R_DRAIN` (R91). -/
  | rxDrainByte (b : Byte)
  /-- The byte popped in `R_ESC` (R91). -/
  | rxEscByte (f : Byte)
  /-- A payload or checksum byte in an encoder (R91). -/
  | txPayloadByte (p : Byte)
  /-- The Type byte in a SLIPMUX encoder (R91). -/
  | txTypeByte (t : Byte)
  /-- A Type value, in the direction that examines it (R91). -/
  | typeClass (d : Dir) (t : Byte)
  /-- The register `tx_state` (R24). -/
  | txStep (state : BitVec 4)
  /-- The register `rx_state` (R24). -/
  | rxStep (state : BitVec 2)
  /-- An internal step. -/
  | internalStep (i : InternalStep)
  /-- Bits that no port of the block shows (log 7). -/
  | noPort (nbits w : Nat)
  deriving DecidableEq, Repr

/-- Why a port word selects no operation. -/
inductive DecodeRefusal where
  /-- `in_valid = 0`: no byte is presented (R121). -/
  | noByte
  /-- The requester index is not below `NREQ` (R100). -/
  | noSuchRequester
  /-- A length or capacity does not fit its `LW` wires (R100). -/
  | fieldTooWide
  /-- `tx_state` or `rx_state` is 0: the engine is idle and has no step (R253). -/
  | engineIdle
  /-- `tx_state` 10 to 15 or `rx_state` 3: never entered (R24, R98). -/
  | stateNeverEntered
  /-- The bits stand on no port of the block. -/
  | noPort
  deriving DecidableEq, Repr

/-- What is shown is an ordinary sight of the port or register, at which no agent has a step: `in_data`
without `in_valid` is ignored (spec/93_implementation_defined.md U25), an idle engine takes no step
(R253), and a state code that is never entered is never the engine's (R24, R98, log 5).  The other
refusals are of bits that stand on no wire of the block (R100). -/
def DecodeRefusal.showsNoStep : DecodeRefusal → Bool
  | .noByte => true
  | .noSuchRequester => false
  | .fieldTooWide => false
  | .engineIdle => true
  | .stateNeverEntered => true
  | .noPort => false

/-- The operation an internal step is. -/
def decodeInternal (c : Params) : InternalStep → Except DecodeRefusal Instr
  | .push b => .ok (.push b)
  | .pop => .ok .pop
  | .synW2r iw ic => .ok (.synW2r iw ic)
  | .synR2w ir => .ok (.synR2w ir)
  | .synFault target => .ok (.synFault target)
  | .lockGrant d q => if slotOk c q then .ok (.lockGrant d q) else .error .noSuchRequester
  | .lockRelease d => .ok (.lockRelease d)
  | .lockTimeout d q => if slotOk c q then .ok (.lockTimeout d q) else .error .noSuchRequester
  | .reset lines => .ok (.reset lines)

/-- The step a value of `tx_state` selects (R24). -/
def decodeTxStep (state : BitVec 4) : Except DecodeRefusal Instr :=
  match state.toNat with
  | 0 => .error .engineIdle
  | 1 => .ok .tLead
  | 2 => .ok .tType
  | 3 => .ok .tPay
  | 4 => .ok .tPay2
  | 5 => .ok .tClo
  | 6 => .ok .tClo2
  | 7 => .ok .tChi
  | 8 => .ok .tChi2
  | 9 => .ok .tTrail
  | _ => .error .stateNeverEntered

/-- The step a value of `rx_state` selects (R24). -/
def decodeRxStep (state : BitVec 2) : Except DecodeRefusal Instr :=
  match state.toNat with
  | 0 => .error .engineIdle
  | 1 => .ok .rDrain
  | 2 => .ok .rEsc
  | _ => .error .stateNeverEntered

/-- The operation a port word selects (R91, R101, R104), or the reason it selects none. -/
def decode (c : Params) : PortWord → Except DecodeRefusal Instr
  | .ingestPort inValid b => if inValid then .ok (.ingest b) else .error .noByte
  | .txCommand q mode t len p =>
    if !slotOk c q then .error .noSuchRequester
    else if !fitsLw c len then .error .fieldTooWide
    else if mode = 0#1 then .ok (.slipEnc q len p)
    else .ok (.smxEnc q t len p)
  | .rxCommand q mode cap st =>
    if !slotOk c q then .error .noSuchRequester
    else if !fitsLw c cap then .error .fieldTooWide
    else if mode = 0#1 then .ok (.slipDec q cap)
    else .ok (.smxDec q cap st)
  | .ingestByte b => if b = terminator then .ok .ingestTerminator else .ok (.ingestOther b)
  | .rxDrainByte b =>
    if b = terminator then .ok .drainTerminator
    else if b = escape then .ok .drainEscape
    else .ok (.drainOther b)
  | .rxEscByte f =>
    if f = escapedTerminator then .ok .escEscapedTerminator
    else if f = escapedEscape then .ok .escEscapedEscape
    else .ok (.escOther f)
  | .txPayloadByte p =>
    if p = terminator then .ok .stuffTerminator
    else if p = escape then .ok .stuffEscape
    else .ok (.stuffOther p)
  | .txTypeByte t => .ok (.typeRaw t)
  | .typeClass d t => if t = c.chkType then .ok (.typeChecksum d t) else .ok (.typePlain d t)
  | .txStep state => decodeTxStep state
  | .rxStep state => decodeRxStep state
  | .internalStep i => decodeInternal c i
  | .noPort _ _ => .error .noPort

/-- The port word of an operation, from the same tables.  A plain command's Type and `DecodeState`
ports are ignored by the block (spec/93_implementation_defined.md U24) and are written as zeros. -/
def encode : Instr → PortWord
  | .ingest b => .ingestPort true b
  | .slipEnc q len p => .txCommand q 0#1 0#8 len p
  | .smxEnc q t len p => .txCommand q 1#1 t len p
  | .slipDec q cap => .rxCommand q 0#1 cap { typeValid := false, type := 0#8, pending := false }
  | .smxDec q cap st => .rxCommand q 1#1 cap st
  | .ingestTerminator => .ingestByte terminator
  | .ingestOther b => .ingestByte b
  | .drainTerminator => .rxDrainByte terminator
  | .drainEscape => .rxDrainByte escape
  | .drainOther b => .rxDrainByte b
  | .escEscapedTerminator => .rxEscByte escapedTerminator
  | .escEscapedEscape => .rxEscByte escapedEscape
  | .escOther f => .rxEscByte f
  | .stuffTerminator => .txPayloadByte terminator
  | .stuffEscape => .txPayloadByte escape
  | .stuffOther p => .txPayloadByte p
  | .typeRaw t => .txTypeByte t
  | .typeChecksum d t => .typeClass d t
  | .typePlain d t => .typeClass d t
  | .tLead => .txStep 1#4
  | .tType => .txStep 2#4
  | .tPay => .txStep 3#4
  | .tPay2 => .txStep 4#4
  | .tClo => .txStep 5#4
  | .tClo2 => .txStep 6#4
  | .tChi => .txStep 7#4
  | .tChi2 => .txStep 8#4
  | .tTrail => .txStep 9#4
  | .rDrain => .rxStep 1#2
  | .rEsc => .rxStep 2#2
  | .push b => .internalStep (.push b)
  | .pop => .internalStep .pop
  | .synW2r iw ic => .internalStep (.synW2r iw ic)
  | .synR2w ir => .internalStep (.synR2w ir)
  | .synFault target => .internalStep (.synFault target)
  | .lockGrant d q => .internalStep (.lockGrant d q)
  | .lockRelease d => .internalStep (.lockRelease d)
  | .lockTimeout d q => .internalStep (.lockTimeout d q)
  | .reset lines => .internalStep (.reset lines)

/-! ### The opcode table as data -/

/-- What a row's `match` column asks of the bits its `mask` column keeps. -/
inductive RowPattern where
  /-- A number. -/
  | bits (mask pattern : Nat)
  /-- The parameter `CHK_TYPE` (row `TYPE.CHECKSUM`). -/
  | chkType
  /-- Nothing: the step is selected by its enabling condition only. -/
  | byName
  deriving DecidableEq, Repr

/-- One row of spec/opcode_table.json. -/
structure Row where
  mnemonic : String
  format : Format
  pattern : RowPattern
  deriving DecidableEq, Repr

/-- The rows of commands, bytes and Types. -/
def wireRows : List Row :=
  [⟨"INGEST", .ingestPort, .bits 0x1 0x1⟩,
   ⟨"SLIP_ENC", .txCommand, .bits 0x1 0x0⟩,
   ⟨"SMX_ENC", .txCommand, .bits 0x1 0x1⟩,
   ⟨"SLIP_DEC", .rxCommand, .bits 0x1 0x0⟩,
   ⟨"SMX_DEC", .rxCommand, .bits 0x1 0x1⟩,
   ⟨"INGEST.TERMINATOR", .ingestByte, .bits 0xFF 0xC0⟩,
   ⟨"INGEST.OTHER", .ingestByte, .bits 0x00 0x00⟩,
   ⟨"DRAIN.TERMINATOR", .rxDrainByte, .bits 0xFF 0xC0⟩,
   ⟨"DRAIN.ESCAPE", .rxDrainByte, .bits 0xFF 0xDB⟩,
   ⟨"DRAIN.OTHER", .rxDrainByte, .bits 0x00 0x00⟩,
   ⟨"ESC.ESCAPED_TERMINATOR", .rxEscByte, .bits 0xFF 0xDC⟩,
   ⟨"ESC.ESCAPED_ESCAPE", .rxEscByte, .bits 0xFF 0xDD⟩,
   ⟨"ESC.OTHER", .rxEscByte, .bits 0x00 0x00⟩,
   ⟨"STUFF.TERMINATOR", .txPayloadByte, .bits 0xFF 0xC0⟩,
   ⟨"STUFF.ESCAPE", .txPayloadByte, .bits 0xFF 0xDB⟩,
   ⟨"STUFF.OTHER", .txPayloadByte, .bits 0x00 0x00⟩,
   ⟨"TYPE.RAW", .txTypeByte, .bits 0x00 0x00⟩,
   ⟨"TYPE.CHECKSUM", .typeClass, .chkType⟩,
   ⟨"TYPE.PLAIN", .typeClass, .bits 0x00 0x00⟩]

/-- The rows of the engines' steps. -/
def stepRows : List Row :=
  [⟨"T_LEAD", .txStep, .bits 0xF 0x1⟩,
   ⟨"T_TYPE", .txStep, .bits 0xF 0x2⟩,
   ⟨"T_PAY", .txStep, .bits 0xF 0x3⟩,
   ⟨"T_PAY2", .txStep, .bits 0xF 0x4⟩,
   ⟨"T_CLO", .txStep, .bits 0xF 0x5⟩,
   ⟨"T_CLO2", .txStep, .bits 0xF 0x6⟩,
   ⟨"T_CHI", .txStep, .bits 0xF 0x7⟩,
   ⟨"T_CHI2", .txStep, .bits 0xF 0x8⟩,
   ⟨"T_TRAIL", .txStep, .bits 0xF 0x9⟩,
   ⟨"R_DRAIN", .rxStep, .bits 0x3 0x1⟩,
   ⟨"R_ESC", .rxStep, .bits 0x3 0x2⟩]

/-- The rows of the internal steps. -/
def internalRows : List Row :=
  [⟨"PUSH", .internalStep, .byName⟩,
   ⟨"POP", .internalStep, .byName⟩,
   ⟨"SYN_W2R", .internalStep, .byName⟩,
   ⟨"SYN_R2W", .internalStep, .byName⟩,
   ⟨"SYN_FAULT", .internalStep, .byName⟩,
   ⟨"LOCK_GRANT", .internalStep, .byName⟩,
   ⟨"LOCK_RELEASE", .internalStep, .byName⟩,
   ⟨"LOCK_TIMEOUT", .internalStep, .byName⟩,
   ⟨"RESET", .internalStep, .byName⟩]

/-- spec/opcode_table.json. -/
def opcodeTable : List Row := wireRows ++ stepRows ++ internalRows

/-- The mnemonic of an operation's row. -/
def Instr.mnemonic : Instr → String
  | .ingest _ => "INGEST"
  | .slipEnc _ _ _ => "SLIP_ENC"
  | .smxEnc _ _ _ _ => "SMX_ENC"
  | .slipDec _ _ => "SLIP_DEC"
  | .smxDec _ _ _ => "SMX_DEC"
  | .ingestTerminator => "INGEST.TERMINATOR"
  | .ingestOther _ => "INGEST.OTHER"
  | .drainTerminator => "DRAIN.TERMINATOR"
  | .drainEscape => "DRAIN.ESCAPE"
  | .drainOther _ => "DRAIN.OTHER"
  | .escEscapedTerminator => "ESC.ESCAPED_TERMINATOR"
  | .escEscapedEscape => "ESC.ESCAPED_ESCAPE"
  | .escOther _ => "ESC.OTHER"
  | .stuffTerminator => "STUFF.TERMINATOR"
  | .stuffEscape => "STUFF.ESCAPE"
  | .stuffOther _ => "STUFF.OTHER"
  | .typeRaw _ => "TYPE.RAW"
  | .typeChecksum _ _ => "TYPE.CHECKSUM"
  | .typePlain _ _ => "TYPE.PLAIN"
  | .tLead => "T_LEAD"
  | .tType => "T_TYPE"
  | .tPay => "T_PAY"
  | .tPay2 => "T_PAY2"
  | .tClo => "T_CLO"
  | .tClo2 => "T_CLO2"
  | .tChi => "T_CHI"
  | .tChi2 => "T_CHI2"
  | .tTrail => "T_TRAIL"
  | .rDrain => "R_DRAIN"
  | .rEsc => "R_ESC"
  | .push _ => "PUSH"
  | .pop => "POP"
  | .synW2r _ _ => "SYN_W2R"
  | .synR2w _ => "SYN_R2W"
  | .synFault _ => "SYN_FAULT"
  | .lockGrant _ _ => "LOCK_GRANT"
  | .lockRelease _ => "LOCK_RELEASE"
  | .lockTimeout _ _ => "LOCK_TIMEOUT"
  | .reset _ => "RESET"

/-- The format of a port word. -/
def PortWord.format : PortWord → Format
  | .ingestPort _ _ => .ingestPort
  | .txCommand _ _ _ _ _ => .txCommand
  | .rxCommand _ _ _ _ => .rxCommand
  | .ingestByte _ => .ingestByte
  | .rxDrainByte _ => .rxDrainByte
  | .rxEscByte _ => .rxEscByte
  | .txPayloadByte _ => .txPayloadByte
  | .txTypeByte _ => .txTypeByte
  | .typeClass _ _ => .typeClass
  | .txStep _ => .txStep
  | .rxStep _ => .rxStep
  | .internalStep _ => .internalStep
  | .noPort _ _ => .noPort

/-- The bits of a port word that the table's `match` and `mask` columns examine. -/
def PortWord.bits : PortWord → Nat
  | .ingestPort v _ => v.toNat
  | .txCommand _ mode _ _ _ => mode.toNat
  | .rxCommand _ mode _ _ => mode.toNat
  | .ingestByte b => b.toNat
  | .rxDrainByte b => b.toNat
  | .rxEscByte f => f.toNat
  | .txPayloadByte p => p.toNat
  | .txTypeByte t => t.toNat
  | .typeClass _ t => t.toNat
  | .txStep s => s.toNat
  | .rxStep s => s.toNat
  | .internalStep _ => 0
  | .noPort _ w => w

/-- A row's pattern holds of a port word's bits. -/
def RowPattern.holds (c : Params) (w : Nat) : RowPattern → Bool
  | .bits mask pattern => w &&& mask == pattern
  | .chkType => w == c.chkType.toNat
  | .byName => true

/-- A row that leaves every bit free ("any other": it applies only where no other row of its format
matches, R104). -/
def RowPattern.anyOther : RowPattern → Bool
  | .bits mask _ => mask == 0
  | .chkType => false
  | .byName => false

/-! ### A bare table word -/

/-- The port on which a bare word of the table is shown.  The table's rows of different formats share
words, and a bare word does not say which port shows it; DESIGN CHOICE (log 7): the first row of the
table whose fixed bits are exactly the word, and the ingest port's byte class where there is none. -/
def tableWordPort (nbits w : Nat) : PortWord :=
  if nbits ≠ 8 ∨ 256 ≤ w then .noPort nbits w
  else if w ≤ 1 then
    .txCommand 0 (BitVec.ofNat 1 w) 0#8 0 []
  else if w ≤ 9 then .txStep (BitVec.ofNat 4 w)
  else if w = 0xDB then .rxDrainByte escape
  else if w = 0xDC ∨ w = 0xDD then .rxEscByte (BitVec.ofNat 8 w)
  else .ingestByte (BitVec.ofNat 8 w)

/-- The instruction the decoder reads from a bare word of the table, shown on the port `tableWordPort`
names, in the sample configuration. -/
def decodeTableWord (nbits w : Nat) : Option Instr :=
  match decode Config.sample (tableWordPort nbits w) with
  | .ok i => some i
  | .error _ => none

end Sys2Proof
end

