-- ==== Sys2Proof/Machine/State.lean ====
section
/-! DEFINITION. The state of the block as plain data (spec/10_state.md), grouped by the agent that
writes it (R20), with the ghost values of R38 and, since `step` is a function, the environment's
inputs (log 4).  Registers whose width is a parameter are natural numbers that every write keeps below
their power of two (log 25). -/

namespace Sys2Proof.Machine

/-- The states of the decode engine (R24). -/
inductive RxState where
  | idle
  | drain
  | esc
  deriving DecidableEq, Repr

/-- The states of the encode engine (R24). -/
inductive TxState where
  | idle
  | lead
  | type
  | pay
  | pay2
  | clo
  | clo2
  | chi
  | chi2
  | trail
  deriving DecidableEq, Repr

/-- `rx_mode`, `tx_mode`: 0 is SLIP, 1 is SLIPMUX (R30, R32). -/
inductive Mode where
  | slip
  | slipmux
  deriving DecidableEq, Repr

/-- The legal contents of `hfault` (R34, R237). -/
inductive HostFault where
  | none
  | countNotZeroOnEmpty
  | txLockTimeout
  | rxLockTimeout
  deriving DecidableEq, Repr

/-- The fatal causes (spec/60_exceptions.md R237). -/
inductive FatalCause where
  | queueFullOnIngest
  | countNotZeroOnEmpty
  | txLockTimeout
  | rxLockTimeout
  deriving DecidableEq, Repr

/-- The ring's storage `mem`: (index, byte) cells, indices strictly rising, one entry for every cell
written since reset and none for a cell not written (R21). -/
abbrev Memory := List Host.Cell

/-- Registers written by the ingest agent `W` (R21, R22, R25, R26). -/
structure IngestRegs where
  ring : Memory
  wptr : Nat
  lastByte : Byte
  closed : Nat
  deriving DecidableEq, Repr

/-- The fault registers (R34). -/
structure FaultRegs where
  wfault : Bool
  hfault : HostFault
  deriving DecidableEq, Repr

/-- The copies one domain holds of the other's values, written by `SYN` only (R29, R34). -/
structure Views where
  wptrR : Nat
  closedR : Nat
  rptrW : Nat
  wfaultH : Bool
  hfaultW : Bool
  deriving DecidableEq, Repr

/-- Registers written by the decode engine `RX` (R23, R24, R27, R30, R31). -/
structure RxRegs where
  rptr : Nat
  consumed : Nat
  state : RxState
  mode : Mode
  cap : Nat
  rcv : Nat
  first : Bool
  typeValid : Bool
  typeReg : Byte
  pendIn : Bool
  owner : Nat
  resLen : Nat
  resComplete : Bool
  resTypeValid : Bool
  resType : Byte
  resPending : Bool
  done : Bool
  deriving DecidableEq, Repr

/-- Registers written by the encode engine `TX` (R24, R32). -/
structure TxRegs where
  state : TxState
  mode : Mode
  type : Byte
  chk : Bool
  len : Nat
  idx : Nat
  fcs : Fcs
  hold : Byte
  owner : Nat
  done : Bool
  deriving DecidableEq, Repr

/-- The locks, the request bits and the wait counters, one of each per requester (R33). -/
structure LockRegs where
  txLock : Bool
  rxLock : Bool
  txReq : List Bool
  rxReq : List Bool
  txWait : List Nat
  rxWait : List Nat
  deriving DecidableEq, Repr

/-- The ghost values of R38, and the model's own traces: the bytes pushed, the bytes `Pop` returned, the
`*_gnt[q]` pulses, and the marks of refused plain commands (log 14, log 24). -/
structure Ghost where
  pushes : Nat
  pops : Nat
  cseq : List Nat
  iw : Nat
  ic : Nat
  ir : Nat
  sinkTrace : List Byte
  dstTrace : List (Nat × Byte)
  pushTrace : List Byte
  popTrace : List Byte
  grants : List (Dir × Nat)
  refusedPosts : List (Dir × Nat)
  deriving DecidableEq, Repr

/-- A start or valid input that is high in the current cycle (spec/30_encoding.md R100). -/
inductive Strobe where
  | inValid
  | start (d : Dir) (m : Mode) (q : Nat)
  deriving DecidableEq, Repr

/-- The encode command ports of one requester, with the payload behind `PayRead` (R101). -/
structure TxPort where
  type : Byte
  len : Nat
  payload : List Byte
  deriving DecidableEq, Repr

/-- The decode command ports of one requester (R101). -/
structure RxPort where
  cap : Nat
  stIn : DecodeState
  deriving DecidableEq, Repr

/-- One entry of the schedule: what the environment does, or which agent steps and with which free
choice (log 4). -/
inductive Event where
  /-- A port word is shown to the block, or a step is taken: one operation. -/
  | op (pw : PortWord)
  /-- Several port words in one `clk` cycle, at whose end the wait counters run (R219, R221, R225; log 19,
  log 22). -/
  | cycle (pws : List PortWord)
  /-- A `clk` cycle without operations: the wait counters run (R218, R221; log 19). -/
  | tick
  /-- `HOST` sets `tx_ready` (R73). -/
  | sinkReady (ready : Bool)
  /-- `HOST` changes the payload behind requester `q`'s `PayRead` (spec/93_implementation_defined.md
  U29). -/
  | payload (q : Nat) (bytes : List Byte)
  deriving DecidableEq, Repr

/-- The environment's side: inputs and parameters of the step relation, not state of the block (R37). -/
structure Env where
  script : List Event
  strobes : List Strobe
  sinkReady : Bool
  txCmd : List TxPort
  rxCmd : List RxPort
  /-- How many resets have happened: what the free power-on contents of the ring are read with (log 3). -/
  epoch : Nat
  deriving DecidableEq, Repr

/-- The state of the machine. -/
structure State where
  cfg : Params
  w : IngestRegs
  faults : FaultRegs
  views : Views
  rx : RxRegs
  tx : TxRegs
  locks : LockRegs
  ghost : Ghost
  env : Env
  deriving DecidableEq, Repr

/-- Why the machine stops with a fault. -/
inductive Fault where
  /-- A command, grant or timeout names a requester slot `q` the block does not have (`NREQ` slots,
  R100).  Raised by SLIP_ENC, SMX_ENC, SLIP_DEC, SMX_DEC, LOCK_GRANT, LOCK_TIMEOUT.  Safe (log 16). -/
  | noSuchRequester (q : Nat)
  deriving DecidableEq, Repr

/-- Why an operation has no meaning. -/
inductive Refusal where
  /-- An arm of `exec` that has no meaning yet.  Safe. -/
  | notModelled (mnemonic : String)
  /-- The schedule holds a word that stands on no port of the block: a requester the block does not have,
  a field wider than its wires, bits of no port (R100).  Raised by `step`.  Safe (log 6). -/
  | undecodable (why : DecodeRefusal)
  /-- `HOST` posts a SLIPMUX command on a slot whose request is pending or whose call is running (R217,
  spec/93_implementation_defined.md U28).  Raised by SMX_ENC and SMX_DEC.  Safe (log 15). -/
  | slotBusy (d : Dir) (q : Nat)
  /-- One domain is reset alone (R267, U30).  Raised by RESET.  Safe (log 15). -/
  | oneDomainReset
  /-- A reset while `in_valid` or a start input is high (R265, U30).  Raised by RESET.  Safe (log 15). -/
  | resetWithActiveInputs
  deriving DecidableEq, Repr

/-! ### Reset (R41, R265) -/

/-- Reset values of the write domain; `mem` is unspecified, so no cell is written (log 3). -/
def IngestRegs.reset : IngestRegs where
  ring := []
  wptr := 0
  lastByte := terminator
  closed := 0

/-- Reset values of the fault registers. -/
def FaultRegs.reset : FaultRegs where
  wfault := false
  hfault := .none

/-- Reset values of the views. -/
def Views.reset : Views where
  wptrR := 0
  closedR := 0
  rptrW := 0
  wfaultH := false
  hfaultW := false

/-- Reset values of the decode engine. -/
def RxRegs.reset : RxRegs where
  rptr := 0
  consumed := 0
  state := .idle
  mode := .slip
  cap := 0
  rcv := 0
  first := false
  typeValid := false
  typeReg := 0x00#8
  pendIn := false
  owner := 0
  resLen := 0
  resComplete := false
  resTypeValid := false
  resType := 0x00#8
  resPending := false
  done := false

/-- Reset values of the encode engine. -/
def TxRegs.reset : TxRegs where
  state := .idle
  mode := .slip
  type := 0x00#8
  chk := false
  len := 0
  idx := 0
  fcs := 0x0000#16
  hold := 0x00#8
  owner := 0
  done := false

/-- Reset values of the locks: free, no request waiting, counters zero. -/
def LockRegs.reset (c : Params) : LockRegs where
  txLock := false
  rxLock := false
  txReq := List.replicate c.nreq false
  rxReq := List.replicate c.nreq false
  txWait := List.replicate c.nreq 0
  rxWait := List.replicate c.nreq 0

/-- Reset values of the ghost. -/
def Ghost.reset : Ghost where
  pushes := 0
  pops := 0
  cseq := [0]
  iw := 0
  ic := 0
  ir := 0
  sinkTrace := []
  dstTrace := []
  pushTrace := []
  popTrace := []
  grants := []
  refusedPosts := []

/-- DESIGN CHOICE (log 21): the environment before it has done anything.  The start inputs are low, as
R265 asks; the sink is ready, as R73 allows a model to take it. -/
def Env.reset (c : Params) : Env where
  script := []
  strobes := []
  sinkReady := true
  txCmd := List.replicate c.nreq { type := 0x00#8, len := 0, payload := [] }
  rxCmd := List.replicate c.nreq
    { cap := 0, stIn := { typeValid := false, type := 0x00#8, pending := false } }
  epoch := 0

/-- Every state element and ghost value at its reset value, for a configuration and an environment. -/
def State.resetFor (c : Params) (e : Env) : State where
  cfg := c
  w := IngestRegs.reset
  faults := FaultRegs.reset
  views := Views.reset
  rx := RxRegs.reset
  tx := TxRegs.reset
  locks := LockRegs.reset c
  ghost := Ghost.reset
  env := e

/-- The machine right after reset, in the sample configuration (log 1), with nothing scheduled. -/
def State.reset : State := State.resetFor Config.sample (Env.reset Config.sample)

end Sys2Proof.Machine
end

