-- ==== Sys2Proof/Machine/Operands.lean ====
section
/-! DEFINITION. The values the steps compute with: modular arithmetic (spec/10_state.md R40), the
ByteStuffer (spec/41_bytestuffer.md), the frame-check value (spec/00_scope.md R10, spec/30_encoding.md
R96) and the frames (R92, R93). -/

namespace Sys2Proof.Machine

/-! ### Arithmetic on registers of a parameter's width (R11, R40) -/

/-- `a + b` modulo `2^w`. -/
def modAdd (w a b : Nat) : Nat := (a + b) % 2 ^ w

/-- `a - b` modulo `2^w`. -/
def modSub (w a b : Nat) : Nat := (a + (2 ^ w - b % 2 ^ w)) % 2 ^ w

/-! ### The ByteStuffer -/

/-- `esc(b)`, the escape rule of the encode direction (R140). -/
def esc (b : Byte) : List Byte :=
  if b = terminator then [escape, escapedTerminator]
  else if b = escape then [escape, escapedEscape]
  else [b]

/-- `unesc(f)`, the unescape rule of the decode direction (R141): total, any other follower passes
unchanged. -/
def unesc (f : Byte) : Byte :=
  if f = escapedTerminator then terminator
  else if f = escapedEscape then escape
  else f

/-- `escAll(p)` (R142). -/
def escAll (p : List Byte) : List Byte := p.flatMap esc

/-- `unescAll(w)` (R142), for a list without `TERMINATOR`. -/
def unescAll : List Byte → List Byte
  | [] => []
  | b :: rest =>
    if b = escape then
      match rest with
      | [] => []
      | f :: rest' => unesc f :: unescAll rest'
    else b :: unescAll rest

/-- The byte an encoder emits first for `p`: the first byte of `esc(p)` (R153, R184, R186). -/
def stuffFirst (p : Byte) : Byte := if p = terminator ∨ p = escape then escape else p

/-- The byte that waits in `tx_hold` while the first byte of a two-byte `esc(p)` is emitted; `none` when
`esc(p)` is one byte (R153). -/
def stuffSecond (p : Byte) : Option Byte :=
  if p = terminator then some escapedTerminator
  else if p = escape then some escapedEscape
  else none

/-! ### The frame-check value -/

/-- `crcFold(s, bytes)` (R10). -/
def crcFold (s : Fcs) (bytes : List Byte) : Fcs := bytes.foldl Config.crcUpdate s

/-- `lo = v[7:0]` of the complemented frame-check value (R96). -/
def fcsLow (fcs : Fcs) : Byte := (~~~fcs).extractLsb' 0 8

/-- `hi = v[15:8]` of the complemented frame-check value (R96). -/
def fcsHigh (fcs : Fcs) : Byte := (~~~fcs).extractLsb' 8 8

/-! ### Frames -/

/-- `slipFrame(p)` (R92). -/
def slipFrame (p : List Byte) : List Byte := [terminator] ++ escAll p ++ [terminator]

/-- The escaped checksum field of a frame with Type `t` and payload `p` (R93, R96). -/
def checksumField (c : Params) (t : Byte) (p : List Byte) : List Byte :=
  let v := crcFold c.crcInit (t :: p)
  esc (fcsLow v) ++ esc (fcsHigh v)

/-- `smxFrame(t, p)` (R93). -/
def smxFrame (c : Params) (t : Byte) (p : List Byte) : List Byte :=
  [terminator, t] ++ escAll p ++ (if t = c.chkType then checksumField c t p else []) ++ [terminator]

end Sys2Proof.Machine
end

