-- ==== Sys2Proof/Machine/Flags.lean ====
section
/-! DEFINITION. The one-bit conditions and the count every step reads (spec/10_state.md R35,
spec/20_memory.md R67, spec/40_framebuffer.md R126, spec/46_concurrency_guard.md R217, R218, R224,
spec/60_exceptions.md R241). -/

namespace Sys2Proof.Machine

/-- `empty_r = (rptr == wptr_r)` (R67). -/
def emptyR (s : State) : Bool := s.rx.rptr == s.views.wptrR

/-- `full_w = ((wptr - rptr_w) mod 2^(AW+1) == DEPTH)` (R67). -/
def fullW (s : State) : Bool := modSub (s.cfg.aw + 1) s.w.wptr s.views.rptrW == s.cfg.depth

/-- `count_r = (closed_r - consumed) mod 2^CW` (R126). -/
def countR (s : State) : Nat := modSub s.cfg.cw s.views.closedR s.rx.consumed

/-- No step of `RX`, `TX`, `ARB` and no command start is enabled: `hfault` or `wfault_h` is set (R241). -/
def hostHalted (s : State) : Bool := s.faults.hfault != .none || s.views.wfaultH

/-- No `INGEST` step is enabled: `wfault` or `hfault_w` is set (R241). -/
def writeHalted (s : State) : Bool := s.faults.wfault || s.views.hfaultW

/-- `d_state != D_IDLE` (R217). -/
def engineBusy (d : Dir) (s : State) : Bool :=
  match d with
  | .tx => s.tx.state != .idle
  | .rx => s.rx.state != .idle

/-- `dLock` (R217). -/
def lockHeld (d : Dir) (s : State) : Bool :=
  match d with
  | .tx => s.locks.txLock
  | .rx => s.locks.rxLock

/-- The request bits of a direction (R33). -/
def requests (d : Dir) (s : State) : List Bool :=
  match d with
  | .tx => s.locks.txReq
  | .rx => s.locks.rxReq

/-- The wait counters of a direction (R33). -/
def waits (d : Dir) (s : State) : List Nat :=
  match d with
  | .tx => s.locks.txWait
  | .rx => s.locks.rxWait

/-- `d_owner` (R30, R32). -/
def ownerOf (d : Dir) (s : State) : Nat :=
  match d with
  | .tx => s.tx.owner
  | .rx => s.rx.owner

/-- `d_req[q]` (R33). -/
def requested (d : Dir) (q : Nat) (s : State) : Bool := (requests d s).getD q false

/-- A waiting request cannot be granted now: the lock is held or the engine is not idle (R218). -/
def unavailable (d : Dir) (s : State) : Bool := lockHeld d s || engineBusy d s

/-- Request `q` is blocked (R218). -/
def blocked (d : Dir) (q : Nat) (s : State) : Bool := requested d q s && unavailable d s

/-- The grant step of request `q` is enabled (R217). -/
def grantable (d : Dir) (q : Nat) (s : State) : Bool :=
  requested d q s && !unavailable d s && !hostHalted s

/-- Slot `q` may not be posted on: its request is pending or its call is running (R217). -/
def slotBusy (d : Dir) (q : Nat) (s : State) : Bool :=
  requested d q s || (engineBusy d s && ownerOf d s == q)

/-- A SLIPMUX command of direction `d` is posted in this very cycle (R224). -/
def muxPosted (d : Dir) (s : State) : Bool :=
  s.env.strobes.any fun p =>
    match p with
    | .start d' .slipmux _ => d' == d
    | _ => false

/-- How many plain commands of direction `d` are posted in this very cycle (R225). -/
def plainPosted (d : Dir) (s : State) : Nat :=
  s.env.strobes.countP fun p =>
    match p with
    | .start d' .slip _ => d' == d
    | _ => false

/-- A plain command of direction `d` posted now starts (R151, R161, R224, R225). -/
def plainStarts (d : Dir) (s : State) : Bool :=
  !unavailable d s && !(requests d s).any id && !muxPosted d s && decide (plainPosted d s ≤ 1)
    && !hostHalted s

/-- The decode engine has an enabled step in state `st` (R162, R166). -/
def rxAt (st : RxState) (s : State) : Bool := s.rx.state == st && !hostHalted s

/-- An emitting step is not held up: the sink is ready and no fault is recorded (R152). -/
def txReady (s : State) : Bool := s.env.sinkReady && !hostHalted s

/-- The encode engine has an enabled step in state `st` (R152 to R155, R183 to R187). -/
def txAt (st : TxState) (s : State) : Bool := s.tx.state == st && txReady s

/-- The code of `hfault`'s content (R237). -/
def HostFault.code : HostFault → BitVec 3
  | .none => 0#3
  | .countNotZeroOnEmpty => 2#3
  | .txLockTimeout => 3#3
  | .rxLockTimeout => 4#3

/-- The value of `rx_state` (R24). -/
def RxState.code : RxState → BitVec 2
  | .idle => 0#2
  | .drain => 1#2
  | .esc => 2#2

/-- The value of `tx_state` (R24). -/
def TxState.code : TxState → BitVec 4
  | .idle => 0#4
  | .lead => 1#4
  | .type => 2#4
  | .pay => 3#4
  | .pay2 => 4#4
  | .clo => 5#4
  | .clo2 => 6#4
  | .chi => 7#4
  | .chi2 => 8#4
  | .trail => 9#4

/-- The state a value of `tx_state` names; 10 to 15 are never entered (R24). -/
def TxState.ofCode (v : BitVec 4) : Option TxState :=
  [.idle, .lead, .type, .pay, .pay2, .clo, .clo2, .chi, .chi2, .trail][v.toNat]?

/-- The state a value of `rx_state` names; 3 is never entered (R24). -/
def RxState.ofCode (v : BitVec 2) : Option RxState := [.idle, .drain, .esc][v.toNat]?

end Sys2Proof.Machine
end

