-- ==== Sys2Proof/Machine/Ops.lean ====
section
/-! DEFINITION. The shared operations: the ring (spec/20_memory.md R63 to R65), the destination, payload
and sink accesses (R72, R73), taking a fatal exception (spec/60_exceptions.md R236) and the one return
from it, the reset (spec/70_reset_and_hazards.md R265, R243). -/

namespace Sys2Proof.Machine

/-! ### Ring storage -/

/-- The byte written to cell `i` since reset, `none` where no push has written it. -/
def Memory.read : Memory → Nat → Option Byte
  | [], _ => none
  | (a, b) :: m, i => if a = i then some b else Memory.read m i

/-- `RingWrite(i, v)` on the storage (R13), keeping the indices rising. -/
def Memory.write : Memory → Nat → Byte → Memory
  | [], i, v => [(i, v)]
  | (a, b) :: m, i, v =>
    if i < a then (i, v) :: (a, b) :: m
    else if i = a then (i, v) :: m
    else (a, b) :: Memory.write m i v

/-- The canonical form: the indices rise strictly.  An unlisted cell reads as "not written", which no
entry is. -/
def Memory.wf : Memory → Bool
  | [] => true
  | [_] => true
  | (a, _) :: (a', b') :: m => decide (a < a') && Memory.wf ((a', b') :: m)

/-- The ring index of a pointer: its low `AW` bits (R63). -/
def ringIndex (c : Params) (p : Nat) : Nat := p % c.depth

/-- `RingRead(i)` (R13); a cell no push has written holds a free value (R21, log 3). -/
def ringRead (s : State) (i : Nat) : Byte :=
  (Memory.read s.w.ring i).getD (Config.ringPowerOn s.env.epoch i)

/-- `Push(b)` (R64): the cell, `wptr` and `Wn`, and nothing else but the model's trace. -/
def pushByte (b : Byte) (s : State) : State :=
  { s with
    w := { s.w with
      ring := Memory.write s.w.ring (ringIndex s.cfg s.w.wptr) b
      wptr := modAdd (s.cfg.aw + 1) s.w.wptr 1 }
    ghost := { s.ghost with
      pushes := s.ghost.pushes + 1
      pushTrace := s.ghost.pushTrace ++ [b] } }

/-- The byte `Pop()` returns (R65). -/
def headByte (s : State) : Byte := ringRead s (ringIndex s.cfg s.rx.rptr)

/-- The state after `Pop()` (R65): `rptr` and `Rn`, and nothing else but the model's trace of the byte
returned. -/
def popByte (s : State) : State :=
  { s with
    rx := { s.rx with rptr := modAdd (s.cfg.aw + 1) s.rx.rptr 1 }
    ghost := { s.ghost with
      pops := s.ghost.pops + 1
      popTrace := s.ghost.popTrace ++ [headByte s] } }

/-- Append the next entry to `cseq` (R38, R121). -/
def noteCounted (counted : Bool) (s : State) : State :=
  { s with ghost := { s.ghost with
      cseq := s.ghost.cseq ++ [s.ghost.cseq.getLastD 0 + counted.toNat] } }

/-! ### Destination, payload, sink -/

/-- `DstWrite(off, b)` (R72). -/
def dstWrite (off : Nat) (b : Byte) (s : State) : State :=
  { s with ghost := { s.ghost with dstTrace := s.ghost.dstTrace ++ [(off, b)] } }

/-- `SinkWrite(b)` (R73). -/
def sinkWrite (b : Byte) (s : State) : State :=
  { s with ghost := { s.ghost with sinkTrace := s.ghost.sinkTrace ++ [b] } }

/-- `PayRead(i)` of the running encode call (R73); past the payload `HOST` holds, a free value
(log 20). -/
def payRead (s : State) (i : Nat) : Byte :=
  ((s.env.txCmd[s.tx.owner]?).bind fun p => p.payload[i]?).getD
    (Config.payloadPastEnd s.ghost.sinkTrace.length i)

/-! ### The exception and its return -/

/-- What a host-domain cause records in `hfault` (R237); the write-domain cause records nothing there. -/
def FatalCause.hostFault : FatalCause → HostFault
  | .queueFullOnIngest => .none
  | .countNotZeroOnEmpty => .countNotZeroOnEmpty
  | .txLockTimeout => .txLockTimeout
  | .rxLockTimeout => .rxLockTimeout

/-- `raise Fatal(cause)` (R236): the fault register of the raising domain, the first host-domain cause
staying, and nothing else.  The halt of R241 follows from the registers. -/
def raiseFatal (cause : FatalCause) (s : State) : State :=
  match cause with
  | .queueFullOnIngest => { s with faults := { s.faults with wfault := true } }
  | _ =>
    if s.faults.hfault = .none then
      { s with faults := { s.faults with hfault := cause.hostFault } }
    else s

/-- The only return from a fault (R243, R265): every state element and ghost value at its reset value.
The configuration stands (R8), and so does `HOST`'s side (log 26); the power-on contents are those of
a new reset (log 3). -/
def resetBlock (s : State) : State :=
  State.resetFor s.cfg { s.env with epoch := s.env.epoch + 1 }

/-! ### Requesters -/

/-- Only slots `0 .. NREQ-1` exist (R100). -/
def withSlot (q : Nat) (s : State) (k : Host.Outcome State Fault Refusal) :
    Host.Outcome State Fault Refusal :=
  if q < s.cfg.nreq then k else .fault (.noSuchRequester q)

/-- A field on `LW` wires (R100): what of a number they carry (log 17). -/
def onLwWires (c : Params) (n : Nat) : Nat := n % 2 ^ c.lw

/-- The request bit and the wait counter of slot `q` written together: posting and grant (R217). -/
def setRequest (d : Dir) (q : Nat) (r : Bool) (l : LockRegs) : LockRegs :=
  match d with
  | .tx => { l with txReq := l.txReq.set q r, txWait := l.txWait.set q 0 }
  | .rx => { l with rxReq := l.rxReq.set q r, rxWait := l.rxWait.set q 0 }

/-- `*_gnt[q]` pulses (R100). -/
def pulseGrant (d : Dir) (q : Nat) (s : State) : State :=
  { s with ghost := { s.ghost with grants := s.ghost.grants ++ [(d, q)] } }

/-- A plain command is refused (R224): no state of the block changes; the run is marked (log 14). -/
def markRefused (d : Dir) (q : Nat) (s : State) : State :=
  { s with ghost := { s.ghost with refusedPosts := s.ghost.refusedPosts ++ [(d, q)] } }

end Sys2Proof.Machine
end

