-- ==== Sys2Proof/Machine/Receive.lean ====
section
/-! DEFINITION. The decode engine `RX`: the start steps, `R_DRAIN`, `R_ESC`, their sub-actions in both
modes, the byte classes of a decoder and the primitive `POP` (spec/43_slip_decode.md,
spec/45_slipmux_decode.md, spec/20_memory.md R65). -/

namespace Sys2Proof.Machine

/-- `Result(n, c)` (R169 in SLIP mode, R202 in SLIPMUX mode, where the receive lock is released, R220).
`early` is the early return of R197. -/
def result (n : Nat) (complete early : Bool) (s : State) : State :=
  match s.rx.mode with
  | .slip =>
    { s with rx := { s.rx with
        resLen := n, resComplete := complete
        resTypeValid := false, resType := 0x00#8, resPending := false
        done := true, state := .idle } }
  | .slipmux =>
    { s with
      rx := { s.rx with
        resLen := n, resComplete := complete
        resTypeValid := s.rx.typeValid, resType := s.rx.typeReg
        resPending := if early then s.rx.pendIn else s.rx.typeValid && !complete
        done := true, state := .idle }
      locks := { s.locks with rxLock := false } }

/-- `Noise()` (R164 in SLIP mode, R199 in SLIPMUX mode). -/
def noise (s : State) : State :=
  match s.rx.mode with
  | .slip => s
  | .slipmux => { s with rx := { s.rx with first := true, typeValid := false } }

/-- The length a completion reports (R165; R201 strips two bytes of a checksummed frame). -/
def completedLength (s : State) : Nat :=
  match s.rx.mode with
  | .slip => s.rx.rcv
  | .slipmux =>
    if s.rx.typeValid = true ∧ s.rx.typeReg = s.cfg.chkType ∧ 2 ≤ s.rx.rcv then s.rx.rcv - 2
    else s.rx.rcv

/-- `Complete()` (R165, R201). -/
def complete (s : State) : State :=
  result (completedLength s) true false
    { s with rx := { s.rx with consumed := modAdd s.cfg.cw s.rx.consumed 1 } }

/-- `Store(d)` (R168): beyond the capacity the byte is dropped. -/
def store (d : Byte) (s : State) : State :=
  if s.rx.rcv < s.rx.cap then
    dstWrite s.rx.rcv d { s with rx := { s.rx with rcv := modAdd s.cfg.lw s.rx.rcv 1 } }
  else s

/-- `Deliver(d)` (R167; in SLIPMUX mode the first byte of a frame is its Type, R200). -/
def deliver (d : Byte) (s : State) : State :=
  match s.rx.mode with
  | .slip => store d s
  | .slipmux =>
    if s.rx.first then
      { s with rx := { s.rx with typeReg := d, typeValid := true, first := false } }
    else store d s

/-- What `R_DRAIN` does with the byte it popped (R162). -/
def drainByte (b : Byte) (s : State) : State :=
  if b = terminator then (if 0 < s.rx.rcv then complete s else noise s)
  else if b = escape then { s with rx := { s.rx with state := .esc } }
  else deliver b s

/-- Step `R_DRAIN` (R162). -/
def drainStep (s : State) : State :=
  if emptyR s then
    if countR s = 0 then result s.rx.rcv false false s
    else raiseFatal .countNotZeroOnEmpty s
  else drainByte (headByte s) (popByte s)

/-- What `R_ESC` does with the follower it popped (R166). -/
def escByte (f : Byte) (s : State) : State :=
  let s1 := deliver (unesc f) s
  { s1 with rx := { s1.rx with state := .drain } }

/-- Step `R_ESC` (R166). -/
def escStep (s : State) : State :=
  if emptyR s then result s.rx.rcv false false s else escByte (headByte s) (popByte s)

/-- The step the state of the decode engine selects. -/
def rxStep (s : State) : State :=
  match s.rx.state with
  | .idle => s
  | .drain => drainStep s
  | .esc => escStep s

/-- The start effects of a decode call (R161, R196), up to the test of the count. -/
def startRegs (m : Mode) (q cap : Nat) (st : DecodeState) (s : State) : State :=
  { s with
    rx := { s.rx with
      mode := m
      cap := onLwWires s.cfg cap
      owner := q
      done := false
      rcv := 0
      first := match m with
        | .slip => false
        | .slipmux => !st.typeValid
      typeValid := match m with
        | .slip => false
        | .slipmux => st.typeValid
      typeReg := match m with
        | .slip => s.rx.typeReg
        | .slipmux => st.type
      pendIn := match m with
        | .slip => s.rx.pendIn
        | .slipmux => st.pending }
    ghost := { s.ghost with dstTrace := [] } }

/-- Start of a decode call (R161, R196): with no completed packet visible it ends in the same step. -/
def startRx (m : Mode) (q cap : Nat) (st : DecodeState) (s : State) : State :=
  let s1 := pulseGrant .rx q (startRegs m q cap st s)
  if countR s = 0 then result 0 false true s1
  else { s1 with rx := { s1.rx with state := .drain } }

/-- The command fields `HOST` puts on the decode ports of requester `q` (R101). -/
def setRxPort (q cap : Nat) (st : DecodeState) (s : State) : State :=
  { s with env := { s.env with rxCmd := s.env.rxCmd.set q { cap := cap, stIn := st } } }

/-- SLIP_DEC q, cap (R160): the posting of a plain decode and its start step (R161), or its refusal with
no state change (R224, log 14).  The call goes on through `R_DRAIN`, `R_ESC` (log 13). -/
def execSlipDec (q cap : Nat) (s : State) : Host.Outcome State Fault Refusal :=
  withSlot q s <| .next <|
    if plainStarts .rx s then
      startRx .slip q cap { typeValid := false, type := 0x00#8, pending := false } s
    else markRefused .rx q s

/-- SMX_DEC q, cap, stIn (R195): the posting (R217).  After a fault the host domain has seen, an action
on the ports has no effect (R241, log 18). -/
def execSmxDec (q cap : Nat) (st : DecodeState) (s : State) : Host.Outcome State Fault Refusal :=
  withSlot q s <|
    if hostHalted s then .next s
    else if slotBusy .rx q s then .refused (.slotBusy .rx q)
    else .next (setRxPort q cap st { s with locks := setRequest .rx q true s.locks })

/-- R_DRAIN (R162). -/
def execRDrain (s : State) : Host.Outcome State Fault Refusal :=
  .next (if rxAt .drain s then drainStep s else s)

/-- R_ESC (R166). -/
def execREsc (s : State) : Host.Outcome State Fault Refusal :=
  .next (if rxAt .esc s then escStep s else s)

/-! ### Byte classes of the decoder (R91) -/

/-- A byte-class row runs where the engine is in state `st` and is about to pop `b` (log 8). -/
def popClass (st : RxState) (b : Byte) (s : State) : State :=
  if rxAt st s && !emptyR s && headByte s == b then rxStep s else s

/-- DRAIN.TERMINATOR: `R_DRAIN` popping `0xC0` (R162, R164, R165, R199, R201). -/
def execDrainTerminator (s : State) : Host.Outcome State Fault Refusal :=
  .next (popClass .drain terminator s)

/-- DRAIN.ESCAPE: `R_DRAIN` popping `0xDB` (R163). -/
def execDrainEscape (s : State) : Host.Outcome State Fault Refusal :=
  .next (popClass .drain escape s)

/-- DRAIN.OTHER b: `R_DRAIN` popping any other byte (R167, R200). -/
def execDrainOther (b : Byte) (s : State) : Host.Outcome State Fault Refusal :=
  .next (if b = terminator ∨ b = escape then s else popClass .drain b s)

/-- ESC.ESCAPED_TERMINATOR: `R_ESC` popping `0xDC`, delivering `0xC0` (R141, R166). -/
def execEscEscapedTerminator (s : State) : Host.Outcome State Fault Refusal :=
  .next (popClass .esc escapedTerminator s)

/-- ESC.ESCAPED_ESCAPE: `R_ESC` popping `0xDD`, delivering `0xDB` (R141, R166). -/
def execEscEscapedEscape (s : State) : Host.Outcome State Fault Refusal :=
  .next (popClass .esc escapedEscape s)

/-- ESC.OTHER f: `R_ESC` popping any other byte, delivered unchanged (R141, R166). -/
def execEscOther (f : Byte) (s : State) : Host.Outcome State Fault Refusal :=
  .next (if f = escapedTerminator ∨ f = escapedEscape then s else popClass .esc f s)

/-- POP (R65): enabled when `empty_r` is false; the byte it returns is the last of `popTrace`.  Between a
grant of the receive lock and its release only the running call pops (R223(b)), in its own steps: with
`rxLock` held a bare POP is no step.  DESIGN CHOICE (log 11): beside a plain call it may be taken. -/
def execPop (s : State) : Host.Outcome State Fault Refusal :=
  .next (if hostHalted s || s.locks.rxLock || emptyR s then s else popByte s)

end Sys2Proof.Machine
end

