-- ==== Sys2Proof/Machine/Transmit.lean ====
section
/-! DEFINITION. The encode engine `TX`: the start steps, the emitting steps `T_LEAD` to `T_TRAIL`, and
the byte classes of an encoder (spec/42_slip_encode.md, spec/44_slipmux_encode.md). -/

namespace Sys2Proof.Machine

/-- `afterByte(i)` (R153). -/
def afterByte (r : TxRegs) (i : Nat) : TxState :=
  if i < r.len then .pay else if r.chk then .clo else .trail

/-- Emit the first byte of `esc(p)`: either it is followed by a second, which waits in `tx_hold` while
the engine is in state `second`, or the byte is done (R153, R184, R186). -/
def stuffRegs (p : Byte) (second : TxState) (done : TxRegs → TxRegs) (r : TxRegs) : TxRegs :=
  match stuffSecond p with
  | some h => { r with hold := h, state := second }
  | none => done r

/-- The payload byte is done: the next index and the state after it (R153, R154). -/
def nextPayload (c : Params) (r : TxRegs) : TxRegs :=
  { r with idx := modAdd c.lw r.idx 1, state := afterByte r (r.idx + 1) }

/-- Fold a raw byte into the frame-check state when the frame is checksummed (R153, R183). -/
def foldFcs (b : Byte) (r : TxRegs) : TxRegs :=
  if r.chk then { r with fcs := Config.crcUpdate r.fcs b } else r

/-- Step `T_LEAD` (R152). -/
def leadStep (s : State) : State :=
  sinkWrite terminator { s with tx := { s.tx with
    state := match s.tx.mode with
      | .slipmux => .type
      | .slip => if s.tx.len = 0 then .trail else .pay } }

/-- Step `T_TYPE` (R183): the Type is emitted raw. -/
def typeStep (s : State) : State :=
  let regs := foldFcs s.tx.type s.tx
  sinkWrite s.tx.type { s with tx := { regs with state := afterByte s.tx 0 } }

/-- Step `T_PAY` (R153). -/
def payStep (s : State) : State :=
  let p := payRead s s.tx.idx
  let regs := stuffRegs p .pay2 (nextPayload s.cfg) (foldFcs p s.tx)
  sinkWrite (stuffFirst p) { s with tx := regs }

/-- Step `T_PAY2` (R154). -/
def pay2Step (s : State) : State :=
  sinkWrite s.tx.hold { s with tx := nextPayload s.cfg s.tx }

/-- Step `T_CLO` (R184). -/
def cloStep (s : State) : State :=
  let b := fcsLow s.tx.fcs
  let regs := stuffRegs b .clo2 (fun r => { r with state := .chi }) s.tx
  sinkWrite (stuffFirst b) { s with tx := regs }

/-- Step `T_CLO2` (R185). -/
def clo2Step (s : State) : State :=
  sinkWrite s.tx.hold { s with tx := { s.tx with state := .chi } }

/-- Step `T_CHI` (R186). -/
def chiStep (s : State) : State :=
  let b := fcsHigh s.tx.fcs
  let regs := stuffRegs b .chi2 (fun r => { r with state := .trail }) s.tx
  sinkWrite (stuffFirst b) { s with tx := regs }

/-- Step `T_CHI2` (R187). -/
def chi2Step (s : State) : State :=
  sinkWrite s.tx.hold { s with tx := { s.tx with state := .trail } }

/-- Step `T_TRAIL` (R155): a SLIPMUX call releases the transmit lock here (R220). -/
def trailStep (s : State) : State :=
  sinkWrite terminator { s with
    tx := { s.tx with done := true, state := .idle }
    locks := match s.tx.mode with
      | .slipmux => { s.locks with txLock := false }
      | .slip => s.locks }

/-- The step the state of the encode engine selects. -/
def txStep (s : State) : State :=
  match s.tx.state with
  | .idle => s
  | .lead => leadStep s
  | .type => typeStep s
  | .pay => payStep s
  | .pay2 => pay2Step s
  | .clo => cloStep s
  | .clo2 => clo2Step s
  | .chi => chiStep s
  | .chi2 => chi2Step s
  | .trail => trailStep s

/-- The start effects of an encode call (R151, R181), emitting nothing. -/
def startTx (m : Mode) (q : Nat) (t : Byte) (len : Nat) (s : State) : State :=
  pulseGrant .tx q { s with tx := { s.tx with
    mode := m
    type := match m with
      | .slip => s.tx.type
      | .slipmux => t
    chk := match m with
      | .slip => false
      | .slipmux => t == s.cfg.chkType
    len := onLwWires s.cfg len
    idx := 0
    fcs := match m with
      | .slip => s.tx.fcs
      | .slipmux => s.cfg.crcInit
    owner := q
    done := false
    state := .lead } }

/-- The payload bytes `HOST` puts behind the command ports of requester `q` (R101). -/
def setTxPort (q : Nat) (t : Byte) (len : Nat) (payload : List Byte) (s : State) : State :=
  { s with env := { s.env with
      txCmd := s.env.txCmd.set q { type := t, len := len, payload := payload } } }

/-- SLIP_ENC q, p (R150): the posting of a plain encode and its start step (R151), or its refusal with
no state change (R224, log 14).  The call goes on through `T_LEAD` .. `T_TRAIL` (log 13). -/
def execSlipEnc (q len : Nat) (payload : List Byte) (s : State) :
    Host.Outcome State Fault Refusal :=
  withSlot q s <| .next <|
    if plainStarts .tx s then startTx .slip q 0#8 len (setTxPort q 0#8 len payload s)
    else markRefused .tx q s

/-- SMX_ENC q, t, p (R180): the posting (R217).  After a fault the host domain has seen, an action on
the ports has no effect (R241, log 18). -/
def execSmxEnc (q : Nat) (t : Byte) (len : Nat) (payload : List Byte) (s : State) :
    Host.Outcome State Fault Refusal :=
  withSlot q s <|
    if hostHalted s then .next s
    else if slotBusy .tx q s then .refused (.slotBusy .tx q)
    else .next (setTxPort q t len payload { s with locks := setRequest .tx q true s.locks })

/-- An emitting step runs where it is enabled; elsewhere the engine has no such step (log 5). -/
def whenTxAt (st : TxState) (act : State → State) (s : State) : State :=
  if txAt st s then act s else s

/-- T_LEAD (R152). -/
def execTLead (s : State) : Host.Outcome State Fault Refusal := .next (whenTxAt .lead leadStep s)

/-- T_TYPE (R183). -/
def execTType (s : State) : Host.Outcome State Fault Refusal := .next (whenTxAt .type typeStep s)

/-- T_PAY (R153). -/
def execTPay (s : State) : Host.Outcome State Fault Refusal := .next (whenTxAt .pay payStep s)

/-- T_PAY2 (R154). -/
def execTPay2 (s : State) : Host.Outcome State Fault Refusal := .next (whenTxAt .pay2 pay2Step s)

/-- T_CLO (R184). -/
def execTClo (s : State) : Host.Outcome State Fault Refusal := .next (whenTxAt .clo cloStep s)

/-- T_CLO2 (R185). -/
def execTClo2 (s : State) : Host.Outcome State Fault Refusal := .next (whenTxAt .clo2 clo2Step s)

/-- T_CHI (R186). -/
def execTChi (s : State) : Host.Outcome State Fault Refusal := .next (whenTxAt .chi chiStep s)

/-- T_CHI2 (R187). -/
def execTChi2 (s : State) : Host.Outcome State Fault Refusal := .next (whenTxAt .chi2 chi2Step s)

/-- T_TRAIL (R155). -/
def execTTrail (s : State) : Host.Outcome State Fault Refusal := .next (whenTxAt .trail trailStep s)

/-! ### Byte classes of the encoder (R91, R140) -/

/-- The byte the engine is about to put through `esc`: a payload byte in `T_PAY`, a checksum byte in
`T_CLO` or `T_CHI` (R140). -/
def stuffedByte (s : State) : Option Byte :=
  match s.tx.state with
  | .pay => some (payRead s s.tx.idx)
  | .clo => some (fcsLow s.tx.fcs)
  | .chi => some (fcsHigh s.tx.fcs)
  | _ => none

/-- Emit all of `esc(b)` for the byte about to be stuffed: the step for its first byte and, where there
is one, the step for its second (R140, log 9). -/
def stuffWhole (s : State) : State :=
  let s1 := txStep s
  match s1.tx.state with
  | .pay2 => pay2Step s1
  | .clo2 => clo2Step s1
  | .chi2 => chi2Step s1
  | _ => s1

/-- A byte-class row runs where the byte about to be stuffed is `b` (log 8). -/
def stuffClass (b : Byte) (s : State) : State :=
  if txReady s && stuffedByte s == some b then stuffWhole s else s

/-- STUFF.TERMINATOR: emits `0xDB, 0xDC` for a payload or checksum byte `0xC0` (R140). -/
def execStuffTerminator (s : State) : Host.Outcome State Fault Refusal :=
  .next (stuffClass terminator s)

/-- STUFF.ESCAPE: emits `0xDB, 0xDD` for a payload or checksum byte `0xDB` (R140). -/
def execStuffEscape (s : State) : Host.Outcome State Fault Refusal :=
  .next (stuffClass escape s)

/-- STUFF.OTHER p: emits any other payload or checksum byte unchanged (R140). -/
def execStuffOther (p : Byte) (s : State) : Host.Outcome State Fault Refusal :=
  .next (if p = terminator ∨ p = escape then s else stuffClass p s)

/-- TYPE.RAW t: `T_TYPE` with the Type byte `t`, emitted unchanged (R183). -/
def execTypeRaw (t : Byte) (s : State) : Host.Outcome State Fault Refusal :=
  .next (if s.tx.type = t then whenTxAt .type typeStep s else s)

end Sys2Proof.Machine
end

