-- ==== Sys2Proof/Machine/Guard.lean ====
section
/-! DEFINITION. The ConcurrencyGuard: grant, release, timeout and the wait counters
(spec/46_concurrency_guard.md). -/

namespace Sys2Proof.Machine

/-- The encode command on requester `q`'s ports. -/
def txPortOf (q : Nat) (s : State) : TxPort :=
  s.env.txCmd.getD q { type := 0x00#8, len := 0, payload := [] }

/-- The decode command on requester `q`'s ports. -/
def rxPortOf (q : Nat) (s : State) : RxPort :=
  s.env.rxCmd.getD q
    { cap := 0, stIn := { typeValid := false, type := 0x00#8, pending := false } }

/-- The grant of the transmit lock to `q` and the start of its call, one step (R217, R181). -/
def grantTx (q : Nat) (s : State) : State :=
  startTx .slipmux q (txPortOf q s).type (txPortOf q s).len
    { s with locks := { setRequest .tx q false s.locks with txLock := true } }

/-- The grant of the receive lock to `q` and the start of its call, one step (R217, R196). -/
def grantRx (q : Nat) (s : State) : State :=
  startRx .slipmux q (rxPortOf q s).cap (rxPortOf q s).stIn
    { s with locks := { setRequest .rx q false s.locks with rxLock := true } }

/-- LOCK_GRANT d q (R217): the atomic test-and-set of the lock; which grantable request is granted is
the schedule's choice (R219). -/
def execLockGrant (d : Dir) (q : Nat) (s : State) : Host.Outcome State Fault Refusal :=
  withSlot q s <| .next <|
    if grantable d q s then
      match d with
      | .tx => grantTx q s
      | .rx => grantRx q s
    else s

/-- The step the decode engine is about to take ends the call with a result (R170, R203: X1, X2, X3). -/
def rxEnds (s : State) : Bool :=
  match s.rx.state with
  | .idle => false
  | .drain =>
    if emptyR s then countR s == 0
    else headByte s == terminator && decide (0 < s.rx.rcv)
  | .esc => emptyR s

/-- LOCK_RELEASE d (R220).  A release is part of `T_TRAIL` of a SLIPMUX call and of every `Result` of an
`SMX_DEC` call, and of nothing else: it is the step it is part of (log 12). -/
def execLockRelease (d : Dir) (s : State) : Host.Outcome State Fault Refusal :=
  .next <|
    match d with
    | .tx => if s.tx.mode = .slipmux then whenTxAt .trail trailStep s else s
    | .rx =>
      if !hostHalted s && s.rx.mode == .slipmux && rxEnds s then rxStep s else s

/-- The fatal cause of a timeout (R221). -/
def timeoutCause : Dir → FatalCause
  | .tx => .txLockTimeout
  | .rx => .rxLockTimeout

/-- LOCK_TIMEOUT d q, the form without time (R222): it may fire at any moment of a wait. -/
def execLockTimeout (d : Dir) (q : Nat) (s : State) : Host.Outcome State Fault Refusal :=
  withSlot q s <| .next <|
    if blocked d q s && !hostHalted s then raiseFatal (timeoutCause d) s else s

/-! ### The wait counters (R218, R221, log 19) -/

/-- The requests that are blocked now (R218). -/
def blockedRequests (s : State) : List (Dir × Nat) :=
  [Dir.tx, Dir.rx].flatMap fun d =>
    ((List.range s.cfg.nreq).filter fun q => blocked d q s).map fun q => (d, q)

/-- A request of direction `d` among `waited` times out: it has waited `LOCK_TIMEOUT` ticks (R221), or its
timeout is among those asked for (R222). -/
def timesOut (waited asked : List (Dir × Nat)) (d : Dir) (s : State) : Bool :=
  waited.any fun p =>
    p.1 == d && (asked.contains p || (waits d s).getD p.2 0 == s.cfg.lockTimeout)

/-- The counters of direction `d` after a cycle in which the requests `waited` were blocked (R218). -/
def tickedWaits (waited : List (Dir × Nat)) (d : Dir) (s : State) : List Nat :=
  (waits d s).mapIdx fun q n => if waited.contains (d, q) then n + 1 else n

/-- The arbiter's time at the end of a `clk` cycle in which the requests `waited` were blocked, the timed
form (R218, R221): a request whose time is up raises, the lowest code first (R246); otherwise the
counters of these requests run.  `asked` are the timeouts that need not wait their time (R222). -/
def clkTimer (waited asked : List (Dir × Nat)) (s : State) : State :=
  if hostHalted s then s
  else if timesOut waited asked .tx s then raiseFatal (timeoutCause .tx) s
  else if timesOut waited asked .rx s then raiseFatal (timeoutCause .rx) s
  else { s with locks := { s.locks with
      txWait := tickedWaits waited .tx s
      rxWait := tickedWaits waited .rx s } }

/-- A `clk` cycle in which no operation is taken. -/
def clkTick (s : State) : State := clkTimer (blockedRequests s) [] s

end Sys2Proof.Machine
end

