-- ==== Sys2Proof/Machine/Ingest.lean ====
section
/-! DEFINITION. The ingest agent `W`: `INGEST`, its byte classes and its primitive `PUSH`
(spec/40_framebuffer.md R120, R121; spec/20_memory.md R64). -/

namespace Sys2Proof.Machine

/-- The byte presented is counted: it closes a non-empty run (R121). -/
def countedByte (b : Byte) (s : State) : Bool := b == terminator && s.w.lastByte != terminator

/-- One `INGEST` of `b` (R121).  With a fault recorded in the write domain the agent has no step and the
byte no effect (R129); with `full_w` it raises and does nothing else (R120). -/
def ingestByte (b : Byte) (s : State) : State :=
  if writeHalted s then s
  else if fullW s then raiseFatal .queueFullOnIngest s
  else
    let counted := countedByte b s
    let s1 := noteCounted counted (pushByte b s)
    { s1 with w := { s1.w with
        closed := if counted then modAdd s.cfg.cw s.w.closed 1 else s.w.closed
        lastByte := b } }

/-- INGEST b (R121). -/
def execIngest (b : Byte) (s : State) : Host.Outcome State Fault Refusal :=
  .next (ingestByte b s)

/-- INGEST.TERMINATOR: `INGEST` of `0xC0` (R91, R121). -/
def execIngestTerminator (s : State) : Host.Outcome State Fault Refusal :=
  .next (ingestByte terminator s)

/-- INGEST.OTHER b: `INGEST` of a byte that is not `0xC0` (R91, R121); `0xC0` is not of this class and
selects no step (log 8). -/
def execIngestOther (b : Byte) (s : State) : Host.Outcome State Fault Refusal :=
  .next (if b = terminator then s else ingestByte b s)

/-- PUSH b (R64): enabled when `full_w` is false.  The ghost `cseq` has one entry per push (R38), and a
bare push counts no terminator (log 11). -/
def execPush (b : Byte) (s : State) : Host.Outcome State Fault Refusal :=
  .next (if writeHalted s || fullW s then s else noteCounted false (pushByte b s))

end Sys2Proof.Machine
end

