-- ==== Sys2Proof/Machine/Reset.lean ====
section
/-! DEFINITION. `RESET` (spec/70_reset_and_hazards.md R265, R267). -/

namespace Sys2Proof.Machine

/-- RESET (R265): both domains together, the inputs idle.  One domain alone, or an active input, is
refused (R267, spec/93_implementation_defined.md U30). -/
def execReset (lines : ResetLines) (s : State) : Host.Outcome State Fault Refusal :=
  match lines with
  | .both => if s.env.strobes = [] then .next (resetBlock s) else .refused .resetWithActiveInputs
  | .writeOnly => .refused .oneDomainReset
  | .hostOnly => .refused .oneDomainReset

end Sys2Proof.Machine
end

