-- ==== Sys2Proof/Machine/Sync.lean ====
section
/-! DEFINITION. The synchronisers `SYN` (spec/20_memory.md R74, spec/60_exceptions.md R241).  They stay
enabled after a fault. -/

namespace Sys2Proof.Machine

/-- The choice `iw'`, `ic'` is one R74 admits. -/
def w2rAdmits (iw ic : Nat) (s : State) : Bool :=
  decide (s.ghost.iw ≤ iw) && decide (iw ≤ s.ghost.pushes) && decide (s.ghost.ic ≤ ic)
    && decide (ic ≤ iw)

/-- SYN_W2R with the choice `iw'`, `ic'` (R74); a choice R74 does not admit leaves the views where they
are (log 23). -/
def execSynW2r (iw ic : Nat) (s : State) : Host.Outcome State Fault Refusal :=
  .next <|
    if w2rAdmits iw ic s then
      { s with
        views := { s.views with
          wptrR := iw % 2 ^ (s.cfg.aw + 1)
          closedR := s.ghost.cseq.getD ic 0 % 2 ^ s.cfg.cw }
        ghost := { s.ghost with iw := iw, ic := ic } }
    else s

/-- The choice `ir'` is one R74 admits. -/
def r2wAdmits (ir : Nat) (s : State) : Bool :=
  decide (s.ghost.ir ≤ ir) && decide (ir ≤ s.ghost.pops)

/-- SYN_R2W with the choice `ir'` (R74). -/
def execSynR2w (ir : Nat) (s : State) : Host.Outcome State Fault Refusal :=
  .next <|
    if r2wAdmits ir s then
      { s with
        views := { s.views with rptrW := ir % 2 ^ (s.cfg.aw + 1) }
        ghost := { s.ghost with ir := ir } }
    else s

/-- SYN_FAULT towards one domain (R241): `wfault_h <- wfault`, or `hfault_w <- (hfault != 0)`. -/
def execSynFault (target : Domain) (s : State) : Host.Outcome State Fault Refusal :=
  .next <|
    match target with
    | .host => { s with views := { s.views with wfaultH := s.faults.wfault } }
    | .write => { s with views := { s.views with hfaultW := s.faults.hfault != .none } }

end Sys2Proof.Machine
end

