-- ==== Sys2Proof/Machine/TypeTag.lean ====
section
/-! DEFINITION. The Type classes, `CHK_TYPE` against any other, at the steps where a Type value decides
what happens (spec/44_slipmux_encode.md R182 to R187, spec/45_slipmux_decode.md R201; log 10). -/

namespace Sys2Proof.Machine

/-- The encode engine runs a SLIPMUX frame of Type `t` and may emit. -/
def txHasType (t : Byte) (s : State) : Bool :=
  txReady s && s.tx.mode == .slipmux && s.tx.type == t

/-- The decode engine is about to complete a SLIPMUX frame whose Type is `t` (R201). -/
def rxCompletesType (t : Byte) (s : State) : Bool :=
  rxAt .drain s && !emptyR s && headByte s == terminator && decide (0 < s.rx.rcv)
    && s.rx.mode == .slipmux && s.rx.typeValid && s.rx.typeReg == t

/-- TYPE.CHECKSUM.  Encode: `T_TYPE` folds the Type into the frame-check value (R182, R183), and after
the payload `esc(lo) ++ esc(hi)` is appended (R184 to R187).  Decode: the completion reports two bytes
fewer (R201). -/
def execTypeChecksum (d : Dir) (t : Byte) (s : State) : Host.Outcome State Fault Refusal :=
  .next <|
    if t ≠ s.cfg.chkType then s
    else match d with
      | .tx =>
        if txHasType t s then
          match s.tx.state with
          | .type => typeStep s
          | .clo => stuffWhole (stuffWhole s)
          | _ => s
        else s
      | .rx => if rxCompletesType t s then drainStep s else s

/-- TYPE.PLAIN.  Encode: `T_TYPE` folds nothing and no checksum follows (R182, R183).  Decode: the
completion strips nothing (R201). -/
def execTypePlain (d : Dir) (t : Byte) (s : State) : Host.Outcome State Fault Refusal :=
  .next <|
    if t = s.cfg.chkType then s
    else match d with
      | .tx => if txHasType t s then whenTxAt .type typeStep s else s
      | .rx => if rxCompletesType t s then drainStep s else s

end Sys2Proof.Machine
end

