-- ==== Sys2Proof/Machine/Dispatch.lean ====
section
/-! DEFINITION. The dispatch: one arm per row of spec/opcode_table.json. -/

namespace Sys2Proof.Machine

def exec (i : Instr) (s : State) : Host.Outcome State Fault Refusal :=
  match i with
  | .ingest b => Sys2Proof.Machine.execIngest b s
  | .slipEnc q len payload => Sys2Proof.Machine.execSlipEnc q len payload s
  | .smxEnc q t len payload => Sys2Proof.Machine.execSmxEnc q t len payload s
  | .slipDec q cap => Sys2Proof.Machine.execSlipDec q cap s
  | .smxDec q cap stIn => Sys2Proof.Machine.execSmxDec q cap stIn s
  | .ingestTerminator => Sys2Proof.Machine.execIngestTerminator s
  | .ingestOther b => Sys2Proof.Machine.execIngestOther b s
  | .drainTerminator => Sys2Proof.Machine.execDrainTerminator s
  | .drainEscape => Sys2Proof.Machine.execDrainEscape s
  | .drainOther b => Sys2Proof.Machine.execDrainOther b s
  | .escEscapedTerminator => Sys2Proof.Machine.execEscEscapedTerminator s
  | .escEscapedEscape => Sys2Proof.Machine.execEscEscapedEscape s
  | .escOther f => Sys2Proof.Machine.execEscOther f s
  | .stuffTerminator => Sys2Proof.Machine.execStuffTerminator s
  | .stuffEscape => Sys2Proof.Machine.execStuffEscape s
  | .stuffOther p => Sys2Proof.Machine.execStuffOther p s
  | .typeRaw t => Sys2Proof.Machine.execTypeRaw t s
  | .typeChecksum d t => Sys2Proof.Machine.execTypeChecksum d t s
  | .typePlain d t => Sys2Proof.Machine.execTypePlain d t s
  | .tLead => Sys2Proof.Machine.execTLead s
  | .tType => Sys2Proof.Machine.execTType s
  | .tPay => Sys2Proof.Machine.execTPay s
  | .tPay2 => Sys2Proof.Machine.execTPay2 s
  | .tClo => Sys2Proof.Machine.execTClo s
  | .tClo2 => Sys2Proof.Machine.execTClo2 s
  | .tChi => Sys2Proof.Machine.execTChi s
  | .tChi2 => Sys2Proof.Machine.execTChi2 s
  | .tTrail => Sys2Proof.Machine.execTTrail s
  | .rDrain => Sys2Proof.Machine.execRDrain s
  | .rEsc => Sys2Proof.Machine.execREsc s
  | .push b => Sys2Proof.Machine.execPush b s
  | .pop => Sys2Proof.Machine.execPop s
  | .synW2r iw ic => Sys2Proof.Machine.execSynW2r iw ic s
  | .synR2w ir => Sys2Proof.Machine.execSynR2w ir s
  | .synFault target => Sys2Proof.Machine.execSynFault target s
  | .lockGrant d q => Sys2Proof.Machine.execLockGrant d q s
  | .lockRelease d => Sys2Proof.Machine.execLockRelease d s
  | .lockTimeout d q => Sys2Proof.Machine.execLockTimeout d q s
  | .reset lines => Sys2Proof.Machine.execReset lines s

end Sys2Proof.Machine
end

