-- ==== Sys2Proof/Machine/Cycle.lean ====
section
/-! DEFINITION. One `clk` cycle of several operations (spec/46_concurrency_guard.md R218, R219, R221, R224,
R225; spec/60_exceptions.md R246; spec/70_reset_and_hazards.md R287; log 22).  The operations are atomic
steps in the order in which they are listed; what the rules say of a cycle as a whole is here. -/

namespace Sys2Proof.Machine

/-- The input an operation of `HOST` raises for its cycle (R100). -/
def strobesOf : Instr → List Strobe
  | .ingest _ => [.inValid]
  | .slipEnc q _ _ => [.start .tx .slip q]
  | .smxEnc q _ _ _ => [.start .tx .slipmux q]
  | .slipDec q _ => [.start .rx .slip q]
  | .smxDec q _ _ => [.start .rx .slipmux q]
  | .ingestTerminator => [.inValid]
  | .ingestOther _ => [.inValid]
  | .drainTerminator => []
  | .drainEscape => []
  | .drainOther _ => []
  | .escEscapedTerminator => []
  | .escEscapedEscape => []
  | .escOther _ => []
  | .stuffTerminator => []
  | .stuffEscape => []
  | .stuffOther _ => []
  | .typeRaw _ => []
  | .typeChecksum _ _ => []
  | .typePlain _ _ => []
  | .tLead => []
  | .tType => []
  | .tPay => []
  | .tPay2 => []
  | .tClo => []
  | .tClo2 => []
  | .tChi => []
  | .tChi2 => []
  | .tTrail => []
  | .rDrain => []
  | .rEsc => []
  | .push _ => []
  | .pop => []
  | .synW2r _ _ => []
  | .synR2w _ => []
  | .synFault _ => []
  | .lockGrant _ _ => []
  | .lockRelease _ => []
  | .lockTimeout _ _ => []
  | .reset _ => []

/-- The same state with other inputs high. -/
def withStrobes (ps : List Strobe) (s : State) : State :=
  { s with env := { s.env with strobes := ps } }

/-- The operation is a command start: the post of a command, or the grant that starts one (R241). -/
def startsCommand : Instr → Bool
  | .slipEnc _ _ _ => true
  | .smxEnc _ _ _ _ => true
  | .slipDec _ _ => true
  | .smxDec _ _ _ => true
  | .lockGrant _ _ => true
  | _ => false

/-- The state `s` with the host domain's fault bits as they are in `edge`. -/
def withHostFaultsOf (edge s : State) : State :=
  { s with
    faults := { s.faults with hfault := edge.faults.hfault }
    views := { s.views with wfaultH := edge.views.wfaultH } }

/-- What a cycle remembers while its operations are taken one after the other. -/
structure Cycle where
  /-- The state in which the cycle began. -/
  edge : State
  /-- The directions in which a command has started in this cycle. -/
  started : List Dir
  /-- The requests that have been blocked ever since the cycle began. -/
  waited : List (Dir × Nat)
  /-- The timeouts asked for, which give way to the cycle's grants (R221, R246(d)). -/
  timeouts : List (Dir × Nat)
  deriving DecidableEq, Repr

/-- A cycle that begins in `s`. -/
def Cycle.begin (s : State) : Cycle where
  edge := s
  started := []
  waited := blockedRequests s
  timeouts := []

/-- The cycle lets the command start: one start per direction (R219, R287), and no plain command in a
cycle in whose beginning a request of its direction waited (R224, spec/90_conflicts.md C10). -/
def Cycle.admits (c : Cycle) : Instr → Bool
  | .slipEnc _ _ _ => !c.started.contains .tx && !(requests .tx c.edge).any id
  | .slipDec _ _ => !c.started.contains .rx && !(requests .rx c.edge).any id
  | .lockGrant d _ => !c.started.contains d
  | _ => true

/-- A start the cycle does not let happen: a plain command is refused (R224), a request goes on
waiting. -/
def turnedAway (i : Instr) (s : State) : Host.Outcome State Fault Refusal :=
  match i with
  | .slipEnc q _ _ => withSlot q s (.next (markRefused .tx q s))
  | .slipDec q _ => withSlot q s (.next (markRefused .rx q s))
  | _ => .next s

/-- A command start that tests the host domain's fault bits as they were in `edge`; a fault raised in the
same edge stays recorded beside the start (R246(e)). -/
def execOnEdge (edge : State) (i : Instr) (s : State) : Host.Outcome State Fault Refusal :=
  match exec i (withHostFaultsOf edge s) with
  | .next t => .next (withHostFaultsOf s t)
  | .fault r => .fault r
  | .refused r => .refused r

/-- One operation of a cycle.  A timeout waits for the end of the cycle. -/
def Cycle.exec (c : Cycle) (i : Instr) (s : State) : Host.Outcome State Fault Refusal :=
  match i with
  | .lockTimeout _ q => withSlot q s (.next s)
  | _ =>
    if startsCommand i then
      if c.admits i then execOnEdge c.edge i s else turnedAway i s
    else Machine.exec i s

/-- The direction in which the operation starts a command. -/
def Cycle.startOf (c : Cycle) (i : Instr) (s : State) : Option Dir :=
  match i with
  | .slipEnc _ _ _ =>
    if c.admits i && plainStarts .tx (withHostFaultsOf c.edge s) then some .tx else none
  | .slipDec _ _ =>
    if c.admits i && plainStarts .rx (withHostFaultsOf c.edge s) then some .rx else none
  | .lockGrant d q =>
    if c.admits i && grantable d q (withHostFaultsOf c.edge s) then some d else none
  | _ => none

/-- What the cycle remembers after operation `i` has taken `s` to `t`. -/
def Cycle.after (c : Cycle) (i : Instr) (s t : State) : Cycle where
  edge := c.edge
  started := c.started ++ (c.startOf i s).toList
  waited := c.waited.filter fun p => blocked p.1 p.2 t
  timeouts :=
    match i with
    | .lockTimeout d q => c.timeouts ++ [(d, q)]
    | _ => c.timeouts

/-- The end of the cycle: the timeouts and the wait counters of the requests that were blocked all
through it (R218, R221, R222). -/
def Cycle.finish (c : Cycle) (s : State) : State := clkTimer c.waited c.timeouts s

/-- The operations of a cycle in the order in which they are listed, and its end. -/
def execCycle : List Instr → Cycle → State → Host.Outcome State Fault Refusal
  | [], c, s => .next (c.finish s)
  | i :: is, c, s =>
    match c.exec i s with
    | .next t => execCycle is (c.after i s t) t
    | .fault r => .fault r
    | .refused r => .refused r

/-- One `clk` cycle: each operation sees which inputs the others raise (R224, R225). -/
def runCycle (is : List Instr) (s : State) : Host.Outcome State Fault Refusal :=
  match execCycle is (Cycle.begin s) (withStrobes (is.flatMap strobesOf) s) with
  | .next t => .next (withStrobes [] t)
  | .fault r => .fault r
  | .refused r => .refused r

end Sys2Proof.Machine
end

