-- ==== Sys2Proof/Machine/Events.lean ====
section
/-! DEFINITION. What one entry of the schedule does (spec/00_scope.md R15, spec/30_encoding.md R102,
R103; log 4). -/

namespace Sys2Proof.Machine

/-- Operations one after the other, up to the first fault or refusal: a program (R102). -/
def execAll : List Instr → State → Host.Outcome State Fault Refusal
  | [], s => .next s
  | i :: is, s =>
    match exec i s with
    | .next t => execAll is t
    | .fault r => .fault r
    | .refused r => .refused r

/-- The operations several port words select: none for a word at which no agent has a step, and none at
all, with the reason, where a word stands on no port. -/
def decodeAll (c : Params) : List PortWord → Except DecodeRefusal (List Instr)
  | [] => .ok []
  | pw :: pws =>
    match decode c pw with
    | .error e => if e.showsNoStep then decodeAll c pws else .error e
    | .ok i =>
      match decodeAll c pws with
      | .error e => .error e
      | .ok is => .ok (i :: is)

/-- `HOST` changes the payload behind requester `q`'s ports (spec/93_implementation_defined.md U29). -/
def setPayload (q : Nat) (bytes : List Byte) (s : State) : State :=
  { s with env := { s.env with
      txCmd := s.env.txCmd.modify q fun p => { p with payload := bytes } } }

/-- One entry of the schedule.  A port word at which no agent has a step changes nothing; one that stands
on no port of the block is refused (R100, log 6). -/
def runEvent (e : Event) (s : State) : Host.Outcome State Fault Refusal :=
  match e with
  | .op pw =>
    match decode s.cfg pw with
    | .ok i => exec i s
    | .error why => if why.showsNoStep then .next s else .refused (.undecodable why)
  | .cycle pws =>
    match decodeAll s.cfg pws with
    | .ok is => runCycle is s
    | .error why => .refused (.undecodable why)
  | .tick => .next (clkTick s)
  | .sinkReady ready => .next { s with env := { s.env with sinkReady := ready } }
  | .payload q bytes => withSlot q s (.next (setPayload q bytes s))

/-- Take the first entry off the schedule and run it; with nothing scheduled every agent waits and
nothing changes (R41, R266). -/
def runNext (s : State) : Host.Outcome State Fault Refusal :=
  match s.env.script with
  | [] => .next s
  | e :: rest => runEvent e { s with env := { s.env with script := rest } }

/-! ### Where a bare table word is placed (log 7) -/

/-- Put byte `b` where the decode engine pops next, visible to it, with the engine in state `st`. -/
def placeHead (st : RxState) (b : Byte) (s : State) : State :=
  { s with
    w := { s.w with ring := Memory.write s.w.ring (ringIndex s.cfg s.rx.rptr) b }
    rx := { s.rx with state := st }
    views := { s.views with
      wptrR := if emptyR s then modAdd (s.cfg.aw + 1) s.rx.rptr 1 else s.views.wptrR } }

/-- `T_PAY` and `T_PAY2` stand at a payload byte (R153): where there is none, one more byte, zero. -/
def placePayload (s : State) : State :=
  if s.tx.idx < s.tx.len then s
  else
    { s with
      tx := { s.tx with len := s.tx.idx + 1 }
      env := { s.env with
        txCmd := s.env.txCmd.modify s.tx.owner fun p =>
          { p with
            payload := p.payload ++ List.replicate (s.tx.idx + 1 - p.payload.length) 0x00#8 } } }

/-- Select what the port word is read from: the register `tx_state` or `rx_state` for a step, the ring
cell and the engine's state for a popped byte; a port carries its word itself. -/
def selectPort (pw : PortWord) (s : State) : State :=
  match pw with
  | .txStep v =>
    match TxState.ofCode v with
    | some st =>
      let s1 := if st = .pay ∨ st = .pay2 then placePayload s else s
      { s1 with tx := { s1.tx with state := st } }
    | none => s
  | .rxStep v =>
    match RxState.ofCode v with
    | some st => { s with rx := { s.rx with state := st } }
    | none => s
  | .rxDrainByte b => placeHead .drain b s
  | .rxEscByte b => placeHead .esc b s
  | _ => s

/-- Schedule a port word as the very next entry, with what selects it in place. -/
def scheduleNext (pw : PortWord) (s : State) : State :=
  let s1 := selectPort pw s
  { s1 with env := { s1.env with script := .op pw :: s1.env.script } }

end Sys2Proof.Machine
end

