-- ==== Sys2Proof/Machine/Outputs.lean ====
section
/-! DEFINITION. The output ports, functions of the state (spec/30_encoding.md R100,
spec/60_exceptions.md R237, R245).  The `*_gnt[q]` pulses and the destination writes are the ghost
traces `grants` and `dstTrace`. -/

namespace Sys2Proof.Machine

/-- `fault_code`: `hfault` if non-zero, else 1 if `wfault_h`, else 0 (R237). -/
def faultCode (s : State) : BitVec 3 :=
  if s.faults.hfault ≠ .none then s.faults.hfault.code
  else if s.views.wfaultH then 1#3
  else 0#3

/-- The byte the encode engine drives on `tx_data`; `none` is `tx_valid = 0` (R73). -/
def txDrive (s : State) : Option Byte :=
  if hostHalted s then none
  else match s.tx.state with
    | .idle => none
    | .lead => some terminator
    | .type => some s.tx.type
    | .pay => some (stuffFirst (payRead s s.tx.idx))
    | .pay2 => some s.tx.hold
    | .clo => some (stuffFirst (fcsLow s.tx.fcs))
    | .clo2 => some s.tx.hold
    | .chi => some (stuffFirst (fcsHigh s.tx.fcs))
    | .chi2 => some s.tx.hold
    | .trail => some terminator

/-- `pl_idx` while a payload byte is read (R73, R153).  What the port shows at any other time the spec
does not say: `none`, of which nothing is claimed (log 29). -/
def payIndex (s : State) : Option Nat :=
  if s.tx.state = .pay ∧ hostHalted s = false then some s.tx.idx else none

/-- `crc_s` and `crc_b` while a raw byte is folded into the frame-check value (R153, R182, R183).  What
the ports show at any other time the spec does not say: `none`, of which nothing is claimed (log 29). -/
def crcDrive (s : State) : Option (Fcs × Byte) :=
  if !s.tx.chk || hostHalted s then none
  else match s.tx.state with
    | .type => some (s.tx.fcs, s.tx.type)
    | .pay => some (s.tx.fcs, payRead s s.tx.idx)
    | _ => none

/-- The status and result outputs (R100). -/
structure Outputs where
  inFull : Bool
  wFault : Bool
  rxBusy : Bool
  rxDone : Bool
  resLen : Nat
  resComplete : Bool
  resTypeValid : Bool
  resType : Byte
  resPending : Bool
  pktCount : Nat
  rxEmpty : Bool
  txBusy : Bool
  txDone : Bool
  plIdx : Option Nat
  txData : Option Byte
  crc : Option (Fcs × Byte)
  faultCode : BitVec 3
  deriving DecidableEq, Repr

/-- The outputs of a state (R100). -/
def outputs (s : State) : Outputs where
  inFull := fullW s
  wFault := s.faults.wfault
  rxBusy := engineBusy .rx s
  rxDone := s.rx.done
  resLen := s.rx.resLen
  resComplete := s.rx.resComplete
  resTypeValid := s.rx.resTypeValid
  resType := s.rx.resType
  resPending := s.rx.resPending
  pktCount := countR s
  rxEmpty := emptyR s
  txBusy := engineBusy .tx s
  txDone := s.tx.done
  plIdx := payIndex s
  txData := txDrive s
  crc := crcDrive s
  faultCode := faultCode s

/-- The level outputs a platform may wire to an interrupt controller (R245). -/
structure StatusLevels where
  packetVisible : Bool
  inFull : Bool
  rxDone : Bool
  txDone : Bool
  hostFaulted : Bool
  writeFaulted : Bool
  deriving DecidableEq, Repr

/-- The status levels of a state (R245). -/
def statusLevels (s : State) : StatusLevels where
  packetVisible := countR s != 0
  inFull := fullW s
  rxDone := s.rx.done
  txDone := s.tx.done
  hostFaulted := faultCode s != 0#3
  writeFaulted := s.faults.wfault

end Sys2Proof.Machine
end

