-- ==== Sys2Proof/Machine/Step.lean ====
section
/-! DEFINITION. One step of the machine, and a bare table word placed where it runs next. -/

namespace Sys2Proof.Machine

/-- One step: the next entry of the schedule (log 4). -/
def step (s : State) : Host.Outcome State Fault Refusal := runNext s

/-- The state whose very next step runs the instruction the table's word `w` of `nbits` bits stands for
(log 7). -/
def State.withFetchWord (s : State) (nbits w : Nat) : State :=
  scheduleNext (tableWordPort nbits w) s

end Sys2Proof.Machine
end

