-- ==== Sys2Proof/Machine/Calls.lean ====
section
/-! DEFINITION. Whole calls and streams: an engine run for many steps, and the call-level functions of
the spec (spec/00_scope.md R16, spec/40_framebuffer.md R122, spec/43_slip_decode.md R172,
spec/45_slipmux_decode.md R209).  No step uses them: statements relate the steps to them. -/

namespace Sys2Proof.Machine

/-- `n` steps of the encode engine alone. -/
def txRun : Nat → State → State
  | 0, s => s
  | n + 1, s => txRun n (if txReady s then txStep s else s)

/-- `n` steps of the decode engine alone. -/
def rxRun : Nat → State → State
  | 0, s => s
  | n + 1, s => rxRun n (if hostHalted s then s else rxStep s)

/-- `FEED bytes` (R103). -/
def feedProgram (bytes : List Byte) : List Instr := bytes.map Instr.ingest

/-- How many bytes of a stream are counted by ingestion after a byte `prev` (R122). -/
def countedIn : (prev : Byte) → List Byte → Nat
  | _, [] => 0
  | prev, b :: bs => (b == terminator && prev != terminator).toNat + countedIn b bs

/-- The visible queue content: the bytes pushed, covered by `wptr_r` and not popped (R62, R172). -/
def visibleQueue (s : State) : List Byte := (s.ghost.pushTrace.take s.ghost.iw).drop s.ghost.pops

/-- How a decode call ends (R172, R209). -/
structure CallEnd where
  /-- The bytes stored, in offset order. -/
  out : List Byte
  /-- The length reported. -/
  len : Nat
  /-- `stOut.type`. -/
  type : Option Byte
  complete : Bool
  rest : List Byte
  fatal : Bool
  deriving DecidableEq, Repr

/-- Append `d` if there is room (R168). -/
def storeTo (cap : Nat) (d : Byte) (out : List Byte) : List Byte :=
  if out.length < cap then out ++ [d] else out

/-- The loop of `slipDec` (R172); `rcv` is the length of `out`. -/
def slipLoop (cap : Nat) : (q out : List Byte) → CallEnd
  | [], out => { out, len := out.length, type := none, complete := false, rest := [], fatal := true }
  | b :: q, out =>
    if b = terminator then
      if 0 < out.length then
        { out, len := out.length, type := none, complete := true, rest := q, fatal := false }
      else slipLoop cap q out
    else if b = escape then
      match q with
      | [] => { out, len := out.length, type := none, complete := false, rest := [], fatal := false }
      | f :: q' => slipLoop cap q' (storeTo cap (unesc f) out)
    else slipLoop cap q (storeTo cap b out)

/-- `slipDec(Q, count, cap)` (R172). -/
def slipDec (q : List Byte) (count cap : Nat) : CallEnd :=
  if count = 0 then
    { out := [], len := 0, type := none, complete := false, rest := q, fatal := false }
  else slipLoop cap q []

/-- The length a completed SLIPMUX call reports for Type `ty` and `n` stored bytes (R201). -/
def strippedLength (c : Params) (ty : Option Byte) (n : Nat) : Nat :=
  if ty = some c.chkType ∧ 2 ≤ n then n - 2 else n

/-- The loop of `smxDec` (R209); `first` is `ty = none`. -/
def smxLoop (c : Params) (cap : Nat) : (q out : List Byte) → (ty : Option Byte) → CallEnd
  | [], out, ty =>
    { out, len := out.length, type := ty, complete := false, rest := [], fatal := true }
  | b :: q, out, ty =>
    if b = terminator then
      if 0 < out.length then
        { out, len := strippedLength c ty out.length, type := ty, complete := true, rest := q,
          fatal := false }
      else smxLoop c cap q out none
    else if b = escape then
      match q with
      | [] =>
        { out, len := out.length, type := ty, complete := false, rest := [], fatal := false }
      | f :: q' =>
        match ty with
        | none => smxLoop c cap q' out (some (unesc f))
        | some t => smxLoop c cap q' (storeTo cap (unesc f) out) (some t)
    else
      match ty with
      | none => smxLoop c cap q out (some b)
      | some t => smxLoop c cap q (storeTo cap b out) (some t)

/-- `smxDec(Q, count, cap, stIn)` (R209), with `stIn.type` as an optional byte. -/
def smxDec (c : Params) (q : List Byte) (count cap : Nat) (ty : Option Byte) : CallEnd :=
  if count = 0 then
    { out := [], len := 0, type := ty, complete := false, rest := q, fatal := false }
  else smxLoop c cap q [] ty

/-- The `type` field of a `DecodeState`. -/
def typeOption (st : DecodeState) : Option Byte :=
  if st.typeValid then some st.type else none

/-- `SYNC` (R103): every view catches up. -/
def syncProgram (s : State) : List Instr :=
  [.synW2r s.ghost.pushes s.ghost.pushes, .synR2w s.ghost.pops]

end Sys2Proof.Machine
end

