-- ==== Sys2Proof/Safety.lean ====
section
/-! DEFINITION. What counts as a safe state and a safe run: the invariants the spec's rules give the
queue, the engines, the locks and the requester slots, and the runs that stay inside the spec's model
(spec/20_memory.md R62 to R67, R74, R75; spec/10_state.md R38, R40; spec/46_concurrency_guard.md). -/

namespace Sys2Proof.Machine

/-- The queue, its pointers, its views and their ghosts agree (R22, R23, R26, R29, R38, R62, R64, R65,
R74, R75). -/
structure QueueInv (s : State) : Prop where
  cfg_wf : s.cfg.wf = true
  wptr_eq : s.w.wptr = s.ghost.pushes % 2 ^ (s.cfg.aw + 1)
  rptr_eq : s.rx.rptr = s.ghost.pops % 2 ^ (s.cfg.aw + 1)
  wptrR_eq : s.views.wptrR = s.ghost.iw % 2 ^ (s.cfg.aw + 1)
  rptrW_eq : s.views.rptrW = s.ghost.ir % 2 ^ (s.cfg.aw + 1)
  closed_eq : s.w.closed = s.ghost.cseq.getLastD 0 % 2 ^ s.cfg.cw
  closedR_eq : s.views.closedR = s.ghost.cseq.getD s.ghost.ic 0 % 2 ^ s.cfg.cw
  ic_le_iw : s.ghost.ic ≤ s.ghost.iw
  iw_le_pushes : s.ghost.iw ≤ s.ghost.pushes
  ir_le_pops : s.ghost.ir ≤ s.ghost.pops
  pops_le_iw : s.ghost.pops ≤ s.ghost.iw
  room : s.ghost.pushes ≤ s.ghost.ir + s.cfg.depth
  cseq_length : s.ghost.cseq.length = s.ghost.pushes + 1
  cseq_head : s.ghost.cseq.head? = some 0
  cseq_rises : s.ghost.cseq.IsChain (fun a b => b = a ∨ b = a + 1)
  pushTrace_length : s.ghost.pushTrace.length = s.ghost.pushes
  popTrace_eq : s.ghost.popTrace = s.ghost.pushTrace.take s.ghost.pops
  cells : ∀ k, s.ghost.pops ≤ k → k < s.ghost.pushes →
    Memory.read s.w.ring (ringIndex s.cfg k) = s.ghost.pushTrace[k]?

/-- The ring's storage keeps its canonical form and lies inside the ring (R60, R63). -/
structure RingInv (s : State) : Prop where
  canonical : Memory.wf s.w.ring = true
  inside : ∀ c ∈ s.w.ring, c.1 < s.cfg.depth

/-- A lock is held exactly while a SLIPMUX call of its direction runs (R217, R220, R224). -/
structure LockInv (s : State) : Prop where
  tx : s.locks.txLock = true ↔ s.tx.state ≠ .idle ∧ s.tx.mode = .slipmux
  rx : s.locks.rxLock = true ↔ s.rx.state ≠ .idle ∧ s.rx.mode = .slipmux

/-- Where the encode engine can stand (R24, R32, R152 to R155, R181 to R187). -/
structure TxInv (s : State) : Prop where
  idx_le : s.tx.idx ≤ s.tx.len
  len_lt : s.tx.len < 2 ^ s.cfg.lw
  begin_idx : s.tx.state = .lead ∨ s.tx.state = .type → s.tx.idx = 0
  pay_idx : s.tx.state = .pay ∨ s.tx.state = .pay2 → s.tx.idx < s.tx.len
  end_idx : s.tx.state = .clo ∨ s.tx.state = .clo2 ∨ s.tx.state = .chi ∨ s.tx.state = .chi2
    ∨ s.tx.state = .trail → s.tx.idx = s.tx.len
  type_mode : s.tx.state = .type → s.tx.mode = .slipmux
  chk_eq : s.tx.chk = true → s.tx.mode = .slipmux ∧ s.tx.type = s.cfg.chkType
  mux_chk : s.tx.mode = .slipmux → (s.tx.chk = true ↔ s.tx.type = s.cfg.chkType)
  check_chk : s.tx.state = .clo ∨ s.tx.state = .clo2 ∨ s.tx.state = .chi ∨ s.tx.state = .chi2 →
    s.tx.chk = true
  hold_eq : s.tx.state = .pay2 ∨ s.tx.state = .clo2 ∨ s.tx.state = .chi2 →
    s.tx.hold = escapedTerminator ∨ s.tx.hold = escapedEscape
  busy_done : s.tx.state ≠ .idle → s.tx.done = false

/-- Where the decode engine can stand (R30, R31, R40, R71, R72, R196 to R202). -/
structure RxInv (s : State) : Prop where
  cap_lt : s.rx.cap < 2 ^ s.cfg.lw
  rcv_le : s.rx.rcv ≤ s.rx.cap
  resLen_lt : s.rx.resLen < 2 ^ s.cfg.lw
  consumed_lt : s.rx.consumed < 2 ^ s.cfg.cw
  mux_first : s.rx.mode = .slipmux → s.rx.typeValid = !s.rx.first
  slip_first : s.rx.mode = .slip → s.rx.first = false ∧ s.rx.typeValid = false
  busy_done : s.rx.state ≠ .idle → s.rx.done = false
  offsets : s.ghost.dstTrace.map Prod.fst = List.range s.rx.rcv

/-- There is one request bit, one wait counter and one set of command ports per slot, owners are slots,
and no counter passes `LOCK_TIMEOUT` (R33, R36, R100). -/
structure SlotInv (s : State) : Prop where
  cfg_wf : s.cfg.wf = true
  txReq_length : s.locks.txReq.length = s.cfg.nreq
  rxReq_length : s.locks.rxReq.length = s.cfg.nreq
  txWait_length : s.locks.txWait.length = s.cfg.nreq
  rxWait_length : s.locks.rxWait.length = s.cfg.nreq
  txCmd_length : s.env.txCmd.length = s.cfg.nreq
  rxCmd_length : s.env.rxCmd.length = s.cfg.nreq
  tx_owner : s.tx.owner < s.cfg.nreq
  rx_owner : s.rx.owner < s.cfg.nreq
  txWait_le : ∀ n ∈ s.locks.txWait, n ≤ s.cfg.lockTimeout
  rxWait_le : ∀ n ∈ s.locks.rxWait, n ≤ s.cfg.lockTimeout

/-- No fault is recorded anywhere (R237). -/
def faultFree (s : State) : Bool := !hostHalted s && !writeHalted s

/-- The run has stayed inside the spec's model: no plain command was refused (R224). -/
def insideModel (s : State) : Bool := s.ghost.refusedPosts.isEmpty

/-- The count's ghost is the counting law over the bytes pushed, and `lastByte` the last of them (R38,
R121, R122). -/
structure CountInv (s : State) : Prop where
  lastByte_eq : s.w.lastByte = s.ghost.pushTrace.getLastD terminator
  cseq_eq : s.ghost.cseq = (List.range (s.ghost.pushTrace.length + 1)).map
    fun k => countedIn terminator (s.ghost.pushTrace.take k)

/-! ### Halted domains (R241, R242) -/

/-- The entry of the schedule shows the block a reset (R265). -/
def Event.resets : Event → Bool
  | .op (.internalStep (.reset _)) => true
  | .cycle pws => pws.any fun pw =>
      match pw with
      | .internalStep (.reset _) => true
      | _ => false
  | _ => false

/-- A fault that one domain has learned of is recorded in the other (R241, R243). -/
structure FaultViewInv (s : State) : Prop where
  host : s.views.wfaultH = true → s.faults.wfault = true
  write : s.views.hfaultW = true → s.faults.hfault ≠ .none

/-- Everything the agents of the host domain write is the same in both states. -/
def hostFrozen (s t : State) : Prop :=
  t.rx = s.rx ∧ t.tx = s.tx ∧ t.locks = s.locks ∧ t.faults.hfault = s.faults.hfault ∧
  t.ghost.sinkTrace = s.ghost.sinkTrace ∧ t.ghost.dstTrace = s.ghost.dstTrace ∧
  t.ghost.popTrace = s.ghost.popTrace ∧ t.ghost.grants = s.ghost.grants

/-- Everything the ingest agent writes is the same in both states. -/
def writeFrozen (s t : State) : Prop :=
  t.w = s.w ∧ t.faults.wfault = s.faults.wfault ∧ t.ghost.pushTrace = s.ghost.pushTrace

/-! ### Clean traffic (spec/60_exceptions.md R256) -/

/-- A packet of the traffic, and the kind of encoder that framed it. -/
structure Packet where
  mode : Mode
  type : Byte
  payload : List Byte
  deriving DecidableEq, Repr

/-- The traffic R256 speaks of: any `SLIP_ENC` frame; an `SMX_ENC` frame with a non-empty payload and a
Type outside `0xC0`, `0xDB`. -/
def Packet.clean (p : Packet) : Bool :=
  match p.mode with
  | .slip => true
  | .slipmux => !p.payload.isEmpty && p.type != terminator && p.type != escape

/-- The bytes of a packet's frame (R92, R93). -/
def Packet.frame (c : Params) (p : Packet) : List Byte :=
  match p.mode with
  | .slip => slipFrame p.payload
  | .slipmux => smxFrame c p.type p.payload

/-- The packets of which not every wire byte is among the first `n`. -/
def unread (c : Params) : List Packet → (n : Nat) → List Packet
  | [], _ => []
  | p :: ps, n => if (p.frame c).length ≤ n then unread c ps (n - (p.frame c).length) else p :: ps

/-- The traffic of a run: its packets, and the one requester of each direction. -/
structure Traffic where
  packets : List Packet
  txRequester : Nat
  rxRequester : Nat
  deriving DecidableEq, Repr

/-- A decode posted now is of the kind of the next packet that is not empty. -/
def Traffic.decodesNext (tr : Traffic) (m : Mode) (s : State) : Bool :=
  match (unread s.cfg tr.packets s.ghost.pops).find? fun p => !p.payload.isEmpty with
  | some p => p.mode == m
  | none => true

/-- Byte `b` is the traffic's next wire byte, and there is room for it. -/
def Traffic.feedsNext (tr : Traffic) (b : Byte) (s : State) : Bool :=
  !fullW s && (s.ghost.pushTrace ++ [b]).isPrefixOf (tr.packets.flatMap (Packet.frame s.cfg))

/-- The operations of a run over the traffic: ingestion feeds its bytes, a queue that is never full; its
requester alone posts in each direction; a decode is of the matching kind, with a capacity, and with no
Type (R204: a call before it completed, or returned at once).  Any step of the engines, the arbiter and
the synchronisers may be taken; the block is not reset, and the queue's primitives run inside the steps
only (log 11). -/
def Traffic.allows (tr : Traffic) (s : State) : Instr → Bool
  | .ingest b => tr.feedsNext b s
  | .ingestTerminator => tr.feedsNext terminator s
  | .ingestOther b => tr.feedsNext b s
  | .slipEnc q _ _ => q == tr.txRequester
  | .smxEnc q _ _ _ => q == tr.txRequester
  | .slipDec q cap => q == tr.rxRequester && decide (1 ≤ cap) && tr.decodesNext .slip s
  | .smxDec q cap st =>
    q == tr.rxRequester && decide (1 ≤ cap) && !st.typeValid && tr.decodesNext .slipmux s
  | .push _ => false
  | .pop => false
  | .reset _ => false
  | _ => true

/-- An entry of the schedule that the traffic allows: one port word at a time. -/
def Traffic.allowsEvent (tr : Traffic) (s : State) : Event → Bool
  | .op pw =>
    match decode s.cfg pw with
    | .ok i => tr.allows s i
    | .error _ => true
  | .cycle _ => false
  | .tick => true
  | .sinkReady _ => true
  | .payload _ _ => true

/-- The states of the runs from `s` over the traffic, in any interleaving (R15). -/
inductive Traffic.Run (tr : Traffic) (s : State) : State → Prop where
  | start : Traffic.Run tr s s
  | event {t u : State} (e : Event) : Traffic.Run tr s t → tr.allowsEvent t e = true →
      runEvent e t = .next u → Traffic.Run tr s u

/-- The source's invariant (spec/40_framebuffer.md R123): the packet count is the number of bytes
enqueued that closed a non-empty packet and have not been consumed by a decode call. -/
def countsPackets (s : State) : Prop :=
  modSub s.cfg.cw s.w.closed s.rx.consumed =
    countedIn terminator s.ghost.pushTrace
      - countedIn terminator (s.ghost.pushTrace.take s.ghost.pops)

end Sys2Proof.Machine
end

