-- ==== Sys2Proof/Certificates/Slice0/Obligations.lean ====
section
/-! DEFINITION. The statements for the provers, rule by rule.  A statement whose conclusion is
`exec i s = .next t` says that the operation completes, what it writes and, by the equality of the
whole state, that it changes nothing else. -/

open Sys2Proof Sys2Proof.Machine

/-! ### Selection of operations -/

/-- An operation on the schedule that decodes is run, on the state with the entry taken off. -/
def Obligations.StepRunsTheDecodedInstruction : Prop :=
  ∀ (s : State) (pw : PortWord) (rest : List Event) (i : Instr),
    s.env.script = .op pw :: rest → decode s.cfg pw = .ok i →
    step s = exec i { s with env := { s.env with script := rest } }

/-- With nothing scheduled every agent waits (the schedule is the model's choice, log 4).  A port word at
which no agent has a step changes nothing, alone or beside others in one cycle: `in_data` without
`in_valid` (R125, U25), an idle engine's state code (R253), a state code no rule enters (R24, R98, log 5).
What stands on no port of the block is refused by name (R100, log 6). -/
def Obligations.IdleScheduleAndUndecodableWords : Prop :=
  (∀ s : State, s.env.script = [] → step s = .next s) ∧
  (∀ (s : State) (pw : PortWord) (rest : List Event),
    (∃ b, pw = .ingestPort false b) ∨ (∃ v, (v = 0#4 ∨ 10#4 ≤ v) ∧ pw = .txStep v) ∨
      (∃ v, (v = 0#2 ∨ v = 3#2) ∧ pw = .rxStep v) →
    (s.env.script = .op pw :: rest →
      step s = .next { s with env := { s.env with script := rest } }) ∧
    (∀ pws, s.env.script = .cycle (pw :: pws) :: rest →
      step s = step { s with env := { s.env with script := .cycle pws :: rest } })) ∧
  (∀ (s : State) (pw : PortWord) (rest : List Event) (why : DecodeRefusal),
    (∃ q mode ty len p, pw = .txCommand q mode ty len p ∧
        (s.cfg.nreq ≤ q ∧ why = .noSuchRequester ∨
          q < s.cfg.nreq ∧ 2 ^ s.cfg.lw ≤ len ∧ why = .fieldTooWide)) ∨
      (∃ q mode cap st, pw = .rxCommand q mode cap st ∧
        (s.cfg.nreq ≤ q ∧ why = .noSuchRequester ∨
          q < s.cfg.nreq ∧ 2 ^ s.cfg.lw ≤ cap ∧ why = .fieldTooWide)) ∨
      (∃ d q, (pw = .internalStep (.lockGrant d q) ∨ pw = .internalStep (.lockTimeout d q)) ∧
        s.cfg.nreq ≤ q ∧ why = .noSuchRequester) ∨
      (∃ nbits w, pw = .noPort nbits w ∧ why = .noPort) →
    s.env.script = .op pw :: rest → step s = .refused (.undecodable why))

/-- Decoding the port word of a well-formed operation gives the operation back. -/
def Obligations.DecodeOfEncodeIsIdentity : Prop :=
  ∀ (c : Params) (i : Instr), i.wf c = true → decode c (encode i) = .ok i

/-- The decoder follows the table (R104): what it accepts is well-formed, the operation's row has the
port word's format and matches its bits, and a row that leaves every bit free is taken only when no
other row of its format matches. -/
def Obligations.DecodeFollowsTheOpcodeTable : Prop :=
  ∀ (c : Params) (pw : PortWord) (i : Instr), decode c pw = .ok i →
    i.wf c = true ∧
    ∃ r ∈ opcodeTable, r.mnemonic = i.mnemonic ∧ r.format = pw.format ∧
      r.pattern.holds c pw.bits = true ∧
      (r.pattern.anyOther = true → ∀ r' ∈ opcodeTable, r'.format = pw.format →
        r'.pattern.holds c pw.bits = true → r' = r)

/-- A few words written out from the spec's tables decode to the operation they stand for. -/
def Obligations.WrittenOutWordsDecode : Prop :=
  decode Config.sample (.ingestByte 0b11000000#8) = .ok .ingestTerminator ∧
  decode Config.sample (.rxDrainByte 0b11011011#8) = .ok .drainEscape ∧
  decode Config.sample (.rxEscByte 0b11011100#8) = .ok .escEscapedTerminator ∧
  decode Config.sample (.rxEscByte 0b11011101#8) = .ok .escEscapedEscape ∧
  decode Config.sample (.txPayloadByte 0b11011011#8) = .ok .stuffEscape ∧
  decode Config.sample (.txStep 0b1001#4) = .ok .tTrail ∧
  decode Config.sample (.rxStep 0b10#2) = .ok .rEsc ∧
  decode Config.sample (.txCommand 1 0b1#1 0x0A#8 2 [0x41#8, 0x42#8]) =
    .ok (.smxEnc 1 0x0A#8 2 [0x41#8, 0x42#8])

/-! ### Reset -/

/-- Every register has its reset value (R41), whatever the configuration; `State.reset` is such a state.
R41 leaves `mem` unspecified: that a cell reads as the free value of its index and of the number of
resets is the model's choice (log 3). -/
def Obligations.ResetStateHasTheResetValues : Prop :=
  (∀ (c : Params) (e : Env),
    (State.resetFor c e).w = { ring := [], wptr := 0, lastByte := 0xC0#8, closed := 0 } ∧
    (State.resetFor c e).faults = { wfault := false, hfault := .none } ∧
    (State.resetFor c e).views =
      { wptrR := 0, closedR := 0, rptrW := 0, wfaultH := false, hfaultW := false } ∧
    (State.resetFor c e).rx =
      { rptr := 0, consumed := 0, state := .idle, mode := .slip, cap := 0, rcv := 0,
        first := false, typeValid := false, typeReg := 0#8, pendIn := false, owner := 0,
        resLen := 0, resComplete := false, resTypeValid := false, resType := 0#8,
        resPending := false, done := false } ∧
    (State.resetFor c e).tx =
      { state := .idle, mode := .slip, type := 0#8, chk := false, len := 0, idx := 0,
        fcs := 0#16, hold := 0#8, owner := 0, done := false } ∧
    (State.resetFor c e).locks =
      { txLock := false, rxLock := false, txReq := List.replicate c.nreq false,
        rxReq := List.replicate c.nreq false, txWait := List.replicate c.nreq 0,
        rxWait := List.replicate c.nreq 0 } ∧
    (∀ i, ringRead (State.resetFor c e) i = Config.ringPowerOn e.epoch i)) ∧
  ∃ c e, State.reset = State.resetFor c e

/-- The outputs R266 lists, just after reset: no `dst_we` write and no `*_gnt[q]` pulse has been made. -/
def Obligations.OutputsAfterReset : Prop :=
  ∀ (c : Params) (e : Env) (o : Outputs), o = outputs (State.resetFor c e) →
    o.inFull = false ∧ o.wFault = false ∧ o.rxEmpty = true ∧ o.pktCount = 0 ∧
    o.rxBusy = false ∧ o.txBusy = false ∧ o.rxDone = false ∧ o.txDone = false ∧
    o.resLen = 0 ∧ o.resComplete = false ∧ o.resTypeValid = false ∧ o.resType = 0x00#8 ∧
    o.resPending = false ∧ o.faultCode = 0#3 ∧ o.txData = none ∧
    (State.resetFor c e).ghost.dstTrace = [] ∧ (State.resetFor c e).ghost.grants = []

/-- `RESET` with the inputs idle puts every state element and ghost value at its reset value; the
configuration and `HOST`'s side stand (log 26).  With an input active, or of one domain alone, it is
refused (R265, R267, U30; log 15). -/
def Obligations.ResetReturnsToTheResetState : Prop :=
  ∀ s : State,
    (s.env.strobes = [] →
      exec (.reset .both) s =
        .next (State.resetFor s.cfg { s.env with epoch := s.env.epoch + 1 })) ∧
    (s.env.strobes ≠ [] → exec (.reset .both) s = .refused .resetWithActiveInputs) ∧
    exec (.reset .writeOnly) s = .refused .oneDomainReset ∧
    exec (.reset .hostOnly) s = .refused .oneDomainReset

/-! ### Ingestion -/

/-- The operations that are one `INGEST` of `b` (R91). -/
def Sys2Proof.Machine.ingestsOf (b : Byte) (i : Instr) : Prop :=
  i = .ingest b ∨ (b = 0xC0#8 ∧ i = .ingestTerminator) ∨ (b ≠ 0xC0#8 ∧ i = .ingestOther b)

/-- `INGEST b` with room and no fault (R121): the cell, `wptr`, `closed`, `lastByte` and the ghosts, all
in one step, and nothing else. -/
def Obligations.IngestStoresAndCounts : Prop :=
  ∀ (s : State) (b : Byte) (i : Instr), ingestsOf b i →
    s.faults.wfault = false → s.views.hfaultW = false → fullW s = false →
    exec i s = .next
      { s with
        w :=
          { ring := Memory.write s.w.ring (s.w.wptr % 2 ^ s.cfg.aw) b
            wptr := (s.w.wptr + 1) % 2 ^ (s.cfg.aw + 1)
            lastByte := b
            closed :=
              if b = 0xC0#8 ∧ s.w.lastByte ≠ 0xC0#8 then (s.w.closed + 1) % 2 ^ s.cfg.cw
              else s.w.closed }
        ghost :=
          { s.ghost with
            pushes := s.ghost.pushes + 1
            pushTrace := s.ghost.pushTrace ++ [b]
            cseq := s.ghost.cseq ++
              [s.ghost.cseq.getLastD 0 +
                if b = 0xC0#8 ∧ s.w.lastByte ≠ 0xC0#8 then 1 else 0] } }

/-- `INGEST` while `full_w` raises the fatal condition and does nothing else (R120, R236); after a fault
the write domain has recorded or learned of it has no effect at all (R129). -/
def Obligations.IngestWhenFullOrFaulted : Prop :=
  ∀ (s : State) (b : Byte) (i : Instr), ingestsOf b i →
    (s.faults.wfault = false → s.views.hfaultW = false → fullW s = true →
      exec i s = .next { s with faults := { s.faults with wfault := true } }) ∧
    (s.faults.wfault = true ∨ s.views.hfaultW = true → exec i s = .next s)

/-- The counting law (R122): feeding a byte sequence that fits counts one terminator per maximal run of
non-terminators followed by one. -/
def Obligations.CountingLaw : Prop :=
  ∀ (s : State) (bs : List Byte), QueueInv s → writeHalted s = false →
    s.ghost.pushes + bs.length ≤ s.ghost.ir + s.cfg.depth →
    ∃ t, execAll (feedProgram bs) s = .next t ∧
      t.w.closed = (s.w.closed + countedIn s.w.lastByte bs) % 2 ^ s.cfg.cw ∧
      t.w.lastByte = bs.getLastD s.w.lastByte ∧
      t.ghost.pushTrace = s.ghost.pushTrace ++ bs ∧
      t.faults = s.faults

/-- `Push(b)` alone (R64): the cell, `wptr`, `Wn`; the ghost `cseq` gets its entry, uncounted (log 11).
`Pop()` alone (R65): `rptr`, `Rn` and the byte returned, the one at the ring index of `rptr`.  Where the
precondition fails neither is a step; nor is a bare `POP` between a grant of the receive lock and its
release, where only the running call pops (R223(b)). -/
def Obligations.PushAndPopMoveOneByte : Prop :=
  (∀ (s : State) (b : Byte),
    (s.faults.wfault = false → s.views.hfaultW = false → fullW s = false →
      exec (.push b) s = .next
        { s with
          w :=
            { s.w with
              ring := Memory.write s.w.ring (s.w.wptr % 2 ^ s.cfg.aw) b
              wptr := (s.w.wptr + 1) % 2 ^ (s.cfg.aw + 1) }
          ghost :=
            { s.ghost with
              pushes := s.ghost.pushes + 1
              pushTrace := s.ghost.pushTrace ++ [b]
              cseq := s.ghost.cseq ++ [s.ghost.cseq.getLastD 0] } }) ∧
    (s.faults.wfault = true ∨ s.views.hfaultW = true ∨ fullW s = true →
      exec (.push b) s = .next s)) ∧
  (∀ s : State,
    (hostHalted s = false → s.locks.rxLock = false → emptyR s = false →
      exec .pop s = .next
        { s with
          rx := { s.rx with rptr := (s.rx.rptr + 1) % 2 ^ (s.cfg.aw + 1) }
          ghost :=
            { s.ghost with
              pops := s.ghost.pops + 1
              popTrace := s.ghost.popTrace ++ [ringRead s (s.rx.rptr % 2 ^ s.cfg.aw)] } }) ∧
    (hostHalted s = true ∨ s.locks.rxLock = true ∨ emptyR s = true → exec .pop s = .next s))

/-! ### The queue -/

/-- Every step keeps the queue's invariant: pointers, views, ghosts and the cells' contents agree, and
what was popped is the beginning of what was pushed (R62, R64, R65, R74, R75). -/
def Obligations.StepKeepsQueueInv : Prop :=
  ∀ s t : State, QueueInv s → step s = .next t → QueueInv t

/-- Every step keeps the ring's storage canonical and inside the ring (R60, R63). -/
def Obligations.StepKeepsRingInv : Prop :=
  ∀ s t : State, RingInv s → step s = .next t → RingInv t

/-- Every invariant of the model holds after reset, in every legal configuration. -/
def Obligations.ResetHasEveryInvariant : Prop :=
  (∀ c : Params, c.wf = true →
    QueueInv (State.resetFor c (Env.reset c)) ∧ RingInv (State.resetFor c (Env.reset c)) ∧
    LockInv (State.resetFor c (Env.reset c)) ∧ TxInv (State.resetFor c (Env.reset c)) ∧
    RxInv (State.resetFor c (Env.reset c)) ∧ SlotInv (State.resetFor c (Env.reset c)) ∧
    CountInv (State.resetFor c (Env.reset c)) ∧ FaultViewInv (State.resetFor c (Env.reset c))) ∧
  ∃ c, c.wf = true ∧ State.reset = State.resetFor c (Env.reset c)

/-- `empty_r` and `full_w` in ghost terms (R67): exact in their view, and never false while the queue is
truly empty or truly full. -/
def Obligations.EmptyAndFullMeasureTheQueue : Prop :=
  ∀ s : State, QueueInv s →
    (emptyR s = true ↔ s.rx.rptr = s.views.wptrR) ∧
    (emptyR s = true ↔ s.ghost.pops = s.ghost.iw) ∧
    (fullW s = true ↔ s.ghost.pushes - s.ghost.ir = s.cfg.depth) ∧
    (s.ghost.pushes = s.ghost.pops → emptyR s = true) ∧
    (s.ghost.pushes - s.ghost.pops = s.cfg.depth → fullW s = true)

/-- FIFO (R62): the `k`-th pop since reset returns exactly the byte given to the `k`-th push, in the steps
of the decode engine and alone, where no call holds the receive lock (R223(b)). -/
def Obligations.PopReturnsThePushedByte : Prop :=
  ∀ s : State, QueueInv s → hostHalted s = false → emptyR s = false →
    ∃ b, s.ghost.pushTrace[s.ghost.pops]? = some b ∧
      (s.locks.rxLock = false →
        ∃ t, exec .pop s = .next t ∧ t.ghost.popTrace = s.ghost.popTrace ++ [b] ∧
          t.ghost.pops = s.ghost.pops + 1) ∧
      (s.rx.state = .drain →
        ∃ t, exec .rDrain s = .next t ∧ t.ghost.popTrace = s.ghost.popTrace ++ [b] ∧
          t.ghost.pops = s.ghost.pops + 1) ∧
      (s.rx.state = .esc →
        ∃ t, exec .rEsc s = .next t ∧ t.ghost.popTrace = s.ghost.popTrace ++ [b] ∧
          t.ghost.pops = s.ghost.pops + 1)

/-- Every step but a bare `PUSH` (which no agent takes, log 11) keeps `lastByte` and the counted
terminators what the counting law says of the bytes pushed (R38, R121, R122). -/
def Obligations.StepsKeepTheCount : Prop :=
  ∀ (s t : State) (i : Instr), QueueInv s → CountInv s → (∀ b, i ≠ .push b) →
    exec i s = .next t → CountInv t

/-! ### Synchronisers -/

/-- The synchronisers, enabled at any time.  `SYN_W2R` and `SYN_R2W` take any choice R74 admits; any
other choice leaves the views where they are (log 23).  `SYN_FAULT` carries a domain's fault bit to the
other (R241). -/
def Obligations.SynchronisersTakeTheChoice : Prop :=
  (∀ (s : State) (iw ic : Nat),
    (s.ghost.iw ≤ iw ∧ iw ≤ s.ghost.pushes ∧ s.ghost.ic ≤ ic ∧ ic ≤ iw →
      exec (.synW2r iw ic) s = .next
        { s with
          views :=
            { s.views with
              wptrR := iw % 2 ^ (s.cfg.aw + 1)
              closedR := s.ghost.cseq.getD ic 0 % 2 ^ s.cfg.cw }
          ghost := { s.ghost with iw := iw, ic := ic } }) ∧
    (¬(s.ghost.iw ≤ iw ∧ iw ≤ s.ghost.pushes ∧ s.ghost.ic ≤ ic ∧ ic ≤ iw) →
      exec (.synW2r iw ic) s = .next s)) ∧
  (∀ (s : State) (ir : Nat),
    (s.ghost.ir ≤ ir ∧ ir ≤ s.ghost.pops →
      exec (.synR2w ir) s = .next
        { s with
          views := { s.views with rptrW := ir % 2 ^ (s.cfg.aw + 1) }
          ghost := { s.ghost with ir := ir } }) ∧
    (¬(s.ghost.ir ≤ ir ∧ ir ≤ s.ghost.pops) → exec (.synR2w ir) s = .next s)) ∧
  (∀ s : State,
    exec (.synFault .host) s =
      .next { s with views := { s.views with wfaultH := s.faults.wfault } } ∧
    (s.faults.hfault = .none → exec (.synFault .write) s =
      .next { s with views := { s.views with hfaultW := false } }) ∧
    (s.faults.hfault ≠ .none → exec (.synFault .write) s =
      .next { s with views := { s.views with hfaultW := true } }))

/-- Views only move forward, whatever is executed but `RESET` (R74). -/
def Obligations.ViewsOnlyMoveForward : Prop :=
  ∀ (s t : State) (i : Instr), (∀ l, i ≠ .reset l) → exec i s = .next t →
    s.ghost.iw ≤ t.ghost.iw ∧ s.ghost.ic ≤ t.ghost.ic ∧ s.ghost.ir ≤ t.ghost.ir

/-! ### The ByteStuffer -/

/-- The escape rule (R140) and the unescape rule (R141). -/
def Obligations.EscapeAndUnescapeRules : Prop :=
  (esc 0xC0#8 = [0xDB#8, 0xDC#8] ∧ esc 0xDB#8 = [0xDB#8, 0xDD#8] ∧
    ∀ b : Byte, b ≠ 0xC0#8 → b ≠ 0xDB#8 → esc b = [b]) ∧
  (unesc 0xDC#8 = 0xC0#8 ∧ unesc 0xDD#8 = 0xDB#8 ∧
    ∀ f : Byte, f ≠ 0xDC#8 → f ≠ 0xDD#8 → unesc f = f)

/-- Unescaping undoes escaping, on bytes and on streams; an escaped stream holds no terminator;
`escAll` is injective and `unescAll` is not (R143). -/
def Obligations.UnescapeUndoesEscape : Prop :=
  (∀ b : Byte, unescAll (esc b) = [b]) ∧
  (∀ p : List Byte, unescAll (escAll p) = p) ∧
  (∀ p : List Byte, (0xC0#8 : Byte) ∉ escAll p) ∧
  Function.Injective escAll ∧ ¬ Function.Injective unescAll

/-- The length law (R144) and the lengths of frames. -/
def Obligations.EscapedLengths : Prop :=
  (∀ p : List Byte, (escAll p).length =
    p.length + p.countP (fun b => b == 0xC0#8 || b == 0xDB#8)) ∧
  (∀ p : List Byte, p.length ≤ (escAll p).length ∧ (escAll p).length ≤ 2 * p.length) ∧
  (∀ p : List Byte,
    p.length + 2 ≤ (slipFrame p).length ∧ (slipFrame p).length ≤ 2 * p.length + 2) ∧
  (∀ (c : Params) (t : Byte) (p : List Byte), t ≠ c.chkType →
    p.length + 3 ≤ (smxFrame c t p).length ∧ (smxFrame c t p).length ≤ 2 * p.length + 3) ∧
  (∀ (c : Params) (p : List Byte),
    p.length + 5 ≤ (smxFrame c c.chkType p).length ∧
      (smxFrame c c.chkType p).length ≤ 2 * p.length + 7)

/-! ### Encode -/

/-- The conditions of R151, R161 and R224 under which a plain command of direction `d` starts. -/
def Sys2Proof.Machine.plainMayStart (d : Dir) (s : State) : Prop :=
  engineBusy d s = false ∧ lockHeld d s = false ∧ (∀ r ∈ requests d s, r = false) ∧
  (∀ q, Strobe.start d .slipmux q ∉ s.env.strobes) ∧ plainPosted d s ≤ 1 ∧
  s.faults.hfault = .none ∧ s.views.wfaultH = false

/-- Start step of a plain encode (R151). -/
def Obligations.PlainEncodeStarts : Prop :=
  ∀ (s : State) (q len : Nat) (p : List Byte), q < s.cfg.nreq → len < 2 ^ s.cfg.lw →
    plainMayStart .tx s →
    exec (.slipEnc q len p) s = .next
      { s with
        tx :=
          { s.tx with
            mode := .slip, chk := false, len := len, idx := 0, owner := q, done := false,
            state := .lead }
        ghost := { s.ghost with grants := s.ghost.grants ++ [(.tx, q)] }
        env :=
          { s.env with
            txCmd := s.env.txCmd.set q { type := 0#8, len := len, payload := p } } }

/-- A plain command that may not start is refused (R224, R225): no state of the block changes and no
grant pulses.  The mark in `refusedPosts` is the model's (log 14). -/
def Obligations.PlainCommandsAreRefused : Prop :=
  ∀ (s : State) (q : Nat), q < s.cfg.nreq →
    (∀ (len : Nat) (p : List Byte), ¬ plainMayStart .tx s →
      exec (.slipEnc q len p) s = .next
        { s with ghost :=
          { s.ghost with refusedPosts := s.ghost.refusedPosts ++ [(.tx, q)] } }) ∧
    (∀ cap : Nat, ¬ plainMayStart .rx s →
      exec (.slipDec q cap) s = .next
        { s with ghost :=
          { s.ghost with refusedPosts := s.ghost.refusedPosts ++ [(.rx, q)] } })

/-- Step `T_LEAD` (R152), and step `T_TYPE` (R183), also as the row `TYPE.RAW`: the Type is emitted raw
and folded when the frame is checksummed. -/
def Obligations.LeadAndTypeSteps : Prop :=
  (∀ s : State, txAt .lead s = true →
    exec .tLead s = .next
      { s with
        tx :=
          { s.tx with
            state :=
              if s.tx.mode = .slipmux then .type
              else if s.tx.len = 0 then .trail
              else .pay }
        ghost := { s.ghost with sinkTrace := s.ghost.sinkTrace ++ [0xC0#8] } }) ∧
  (∀ (s : State) (i : Instr), i = .tType ∨ i = .typeRaw s.tx.type → txAt .type s = true →
    exec i s = .next
      { s with
        tx :=
          { s.tx with
            fcs := if s.tx.chk = true then Config.crcUpdate s.tx.fcs s.tx.type else s.tx.fcs
            state :=
              if 0 < s.tx.len then .pay else if s.tx.chk = true then .clo else .trail }
        ghost := { s.ghost with sinkTrace := s.ghost.sinkTrace ++ [s.tx.type] } })

/-- Steps `T_PAY` (R153) and `T_PAY2` (R154): the escape sequence of the payload byte at `tx_idx`, the
second byte waiting in `tx_hold`.  `PayRead` gives the byte `HOST` holds (R73) behind the owner's command
port; that the payload stands there, and past it a free value, is the model's choice (log 20). -/
def Obligations.PayloadSteps : Prop :=
  ∀ s : State, s.tx.idx + 1 < 2 ^ s.cfg.lw →
    (∀ p : Byte, txAt .pay s = true → p = payRead s s.tx.idx →
      exec .tPay s = .next
        { s with
          tx :=
            { s.tx with
              fcs := if s.tx.chk = true then Config.crcUpdate s.tx.fcs p else s.tx.fcs
              hold :=
                if p = 0xC0#8 then 0xDC#8 else if p = 0xDB#8 then 0xDD#8 else s.tx.hold
              idx := if p = 0xC0#8 ∨ p = 0xDB#8 then s.tx.idx else s.tx.idx + 1
              state :=
                if p = 0xC0#8 ∨ p = 0xDB#8 then .pay2
                else if s.tx.idx + 1 < s.tx.len then .pay
                else if s.tx.chk = true then .clo
                else .trail }
          ghost :=
            { s.ghost with
              sinkTrace := s.ghost.sinkTrace ++
                [if p = 0xC0#8 ∨ p = 0xDB#8 then 0xDB#8 else p] } }) ∧
    (txAt .pay2 s = true →
      exec .tPay2 s = .next
        { s with
          tx :=
            { s.tx with
              idx := s.tx.idx + 1
              state :=
                if s.tx.idx + 1 < s.tx.len then .pay
                else if s.tx.chk = true then .clo
                else .trail }
          ghost := { s.ghost with sinkTrace := s.ghost.sinkTrace ++ [s.tx.hold] } }) ∧
    (∀ (port : TxPort) (i : Nat) (b : Byte), s.env.txCmd[s.tx.owner]? = some port →
      port.payload[i]? = some b → payRead s i = b)

/-- Steps `T_CLO` and `T_CHI` (R184, R186): the two halves of the complemented frame-check value, the low
byte first; steps `T_CLO2` and `T_CHI2` (R185, R187): the second byte of their escape sequences. -/
def Obligations.ChecksumSteps : Prop :=
  (∀ (s : State) (b : Byte),
    (txAt .clo s = true → b = (~~~s.tx.fcs).setWidth 8 →
      exec .tClo s = .next
        { s with
          tx :=
            { s.tx with
              hold := if b = 0xC0#8 then 0xDC#8 else if b = 0xDB#8 then 0xDD#8 else s.tx.hold
              state := if b = 0xC0#8 ∨ b = 0xDB#8 then .clo2 else .chi }
          ghost :=
            { s.ghost with
              sinkTrace := s.ghost.sinkTrace ++
                [if b = 0xC0#8 ∨ b = 0xDB#8 then 0xDB#8 else b] } }) ∧
    (txAt .chi s = true → b = ((~~~s.tx.fcs) >>> 8).setWidth 8 →
      exec .tChi s = .next
        { s with
          tx :=
            { s.tx with
              hold := if b = 0xC0#8 then 0xDC#8 else if b = 0xDB#8 then 0xDD#8 else s.tx.hold
              state := if b = 0xC0#8 ∨ b = 0xDB#8 then .chi2 else .trail }
          ghost :=
            { s.ghost with
              sinkTrace := s.ghost.sinkTrace ++
                [if b = 0xC0#8 ∨ b = 0xDB#8 then 0xDB#8 else b] } })) ∧
  (∀ s : State,
    (txAt .clo2 s = true → exec .tClo2 s = .next
      { s with
        tx := { s.tx with state := .chi }
        ghost := { s.ghost with sinkTrace := s.ghost.sinkTrace ++ [s.tx.hold] } }) ∧
    (txAt .chi2 s = true → exec .tChi2 s = .next
      { s with
        tx := { s.tx with state := .trail }
        ghost := { s.ghost with sinkTrace := s.ghost.sinkTrace ++ [s.tx.hold] } }))

/-- Step `T_TRAIL` (R155): the closing terminator, `tx_done`, and the release of the transmit lock in
SLIPMUX mode (R220).  In SLIPMUX mode this is also the row `LOCK_RELEASE` (log 12). -/
def Obligations.TrailStepEndsTheCall : Prop :=
  ∀ (s : State) (i : Instr),
    i = .tTrail ∨ (i = .lockRelease .tx ∧ s.tx.mode = .slipmux) → txAt .trail s = true →
    exec i s = .next
      { s with
        tx := { s.tx with done := true, state := .idle }
        locks :=
          { s.locks with txLock := if s.tx.mode = .slipmux then false else s.locks.txLock }
        ghost := { s.ghost with sinkTrace := s.ghost.sinkTrace ++ [0xC0#8] } }

/-- The byte-class rows of the encoder emit all of `esc(b)` for the byte about to be stuffed (R140); that
a row spans both steps is the model's choice (log 9).  Nothing but the encode engine and the sink
changes. -/
def Obligations.StuffRowsEmitTheEscapeSequence : Prop :=
  ∀ (s : State) (b : Byte) (i : Instr),
    (b = 0xC0#8 ∧ i = .stuffTerminator) ∨ (b = 0xDB#8 ∧ i = .stuffEscape) ∨
      (b ≠ 0xC0#8 ∧ b ≠ 0xDB#8 ∧ i = .stuffOther b) →
    txReady s = true → stuffedByte s = some b →
    ∃ r : TxRegs,
      exec i s = .next
        { s with
          tx := r
          ghost := { s.ghost with sinkTrace := s.ghost.sinkTrace ++ esc b } } ∧
      (s.tx.state = .pay → s.tx.idx + 1 < 2 ^ s.cfg.lw →
        r = { s.tx with
          fcs := if s.tx.chk = true then Config.crcUpdate s.tx.fcs b else s.tx.fcs
          hold := if b = 0xC0#8 then 0xDC#8 else if b = 0xDB#8 then 0xDD#8 else s.tx.hold
          idx := s.tx.idx + 1
          state :=
            if s.tx.idx + 1 < s.tx.len then .pay
            else if s.tx.chk = true then .clo
            else .trail }) ∧
      (s.tx.state = .clo →
        r = { s.tx with
          hold := if b = 0xC0#8 then 0xDC#8 else if b = 0xDB#8 then 0xDD#8 else s.tx.hold
          state := .chi }) ∧
      (s.tx.state = .chi →
        r = { s.tx with
          hold := if b = 0xC0#8 then 0xDC#8 else if b = 0xDB#8 then 0xDD#8 else s.tx.hold
          state := .trail })

/-- A step that is not enabled is no step (log 5): an engine's step whose state is not the engine's, whose
sink is not ready, or after a fault (R152 to R155, R162, R166, R183 to R187, R241); the grant of a
request that is not posted, or whose lock or engine is not free; the timeout of a request that is not
blocked (R217, R218, R222, R241). -/
def Obligations.DisabledStepsDoNothing : Prop :=
  (∀ (s : State) (st : TxState) (i : Instr),
    (st, i) ∈ [(TxState.lead, Instr.tLead), (.type, .tType), (.pay, .tPay), (.pay2, .tPay2),
      (.clo, .tClo), (.clo2, .tClo2), (.chi, .tChi), (.chi2, .tChi2), (.trail, .tTrail)] →
    s.tx.state ≠ st ∨ s.env.sinkReady = false ∨ s.faults.hfault ≠ .none ∨
      s.views.wfaultH = true →
    exec i s = .next s) ∧
  (∀ (s : State) (st : RxState) (i : Instr),
    (st, i) ∈ [(RxState.drain, Instr.rDrain), (.esc, .rEsc)] →
    s.rx.state ≠ st ∨ s.faults.hfault ≠ .none ∨ s.views.wfaultH = true →
    exec i s = .next s) ∧
  (∀ (s : State) (d : Dir) (q : Nat), q < s.cfg.nreq →
    requested d q s = false ∨ lockHeld d s = true ∨ engineBusy d s = true ∨
      s.faults.hfault ≠ .none ∨ s.views.wfaultH = true →
    exec (.lockGrant d q) s = .next s) ∧
  (∀ (s : State) (d : Dir) (q : Nat), q < s.cfg.nreq →
    blocked d q s = false ∨ s.faults.hfault ≠ .none ∨ s.views.wfaultH = true →
    exec (.lockTimeout d q) s = .next s)

/-- A whole `SLIP_ENC` call (R156): from its start step, one emitting step per wire byte appends exactly
`slipFrame(p)`, ends the call, and leaves the FrameBuffer, the decode engine and the locks alone. -/
def Obligations.SlipEncodeCallEmitsTheFrame : Prop :=
  ∀ (s : State) (q : Nat) (p : List Byte), SlotInv s → q < s.cfg.nreq →
    p.length < 2 ^ s.cfg.lw → plainMayStart .tx s → s.env.sinkReady = true →
    ∃ t, exec (.slipEnc q p.length p) s = .next t ∧
      (txRun (slipFrame p).length t).ghost.sinkTrace = s.ghost.sinkTrace ++ slipFrame p ∧
      (txRun (slipFrame p).length t).tx.state = .idle ∧
      (txRun (slipFrame p).length t).tx.done = true ∧
      (txRun (slipFrame p).length t).w = s.w ∧
      (txRun (slipFrame p).length t).rx = s.rx ∧
      (txRun (slipFrame p).length t).views = s.views ∧
      (txRun (slipFrame p).length t).locks = s.locks ∧
      (txRun (slipFrame p).length t).faults = s.faults

/-- A whole `SMX_ENC` call (R188): from its posting and its grant, one emitting step per wire byte
appends exactly `smxFrame(t, p)`, ends the call and releases the lock. -/
def Obligations.SmxEncodeCallEmitsTheFrame : Prop :=
  ∀ (s : State) (q : Nat) (ty : Byte) (p : List Byte), SlotInv s → q < s.cfg.nreq →
    p.length < 2 ^ s.cfg.lw → hostHalted s = false → requested .tx q s = false →
    s.tx.state = .idle → s.locks.txLock = false → s.env.sinkReady = true →
    ∃ t, execAll [.smxEnc q ty p.length p, .lockGrant .tx q] s = .next t ∧
      t.locks.txLock = true ∧ t.tx.owner = q ∧
      (txRun (smxFrame s.cfg ty p).length t).ghost.sinkTrace =
        s.ghost.sinkTrace ++ smxFrame s.cfg ty p ∧
      (txRun (smxFrame s.cfg ty p).length t).tx.state = .idle ∧
      (txRun (smxFrame s.cfg ty p).length t).tx.done = true ∧
      (txRun (smxFrame s.cfg ty p).length t).locks.txLock = false ∧
      (txRun (smxFrame s.cfg ty p).length t).w = s.w ∧
      (txRun (smxFrame s.cfg ty p).length t).rx = s.rx ∧
      (txRun (smxFrame s.cfg ty p).length t).views = s.views ∧
      (txRun (smxFrame s.cfg ty p).length t).faults = s.faults

/-! ### Decode -/

/-- Start step of a plain decode (R161): an early return when no completed packet is visible, else the
engine drains. -/
def Obligations.PlainDecodeStarts : Prop :=
  ∀ (s : State) (q cap : Nat), q < s.cfg.nreq → cap < 2 ^ s.cfg.lw → plainMayStart .rx s →
    (countR s = 0 →
      exec (.slipDec q cap) s = .next
        { s with
          rx :=
            { s.rx with
              mode := .slip, cap := cap, owner := q, rcv := 0, first := false,
              typeValid := false, resLen := 0, resComplete := false, resTypeValid := false,
              resType := 0#8, resPending := false, done := true, state := .idle }
          ghost :=
            { s.ghost with dstTrace := [], grants := s.ghost.grants ++ [(.rx, q)] } }) ∧
    (countR s ≠ 0 →
      exec (.slipDec q cap) s = .next
        { s with
          rx :=
            { s.rx with
              mode := .slip, cap := cap, owner := q, rcv := 0, first := false,
              typeValid := false, done := false, state := .drain }
          ghost :=
            { s.ghost with dstTrace := [], grants := s.ghost.grants ++ [(.rx, q)] } })

/-- The end of a call that is not complete (R169, R202): the SLIPMUX form returns the Type and releases
the receive lock. -/
def Sys2Proof.Machine.partialResult (s : State) : State :=
  match s.rx.mode with
  | .slip =>
    { s with rx := { s.rx with
        resLen := s.rx.rcv, resComplete := false, resTypeValid := false, resType := 0#8,
        resPending := false, done := true, state := .idle } }
  | .slipmux =>
    { s with
      rx := { s.rx with
        resLen := s.rx.rcv, resComplete := false, resTypeValid := s.rx.typeValid,
        resType := s.rx.typeReg, resPending := s.rx.typeValid, done := true, state := .idle }
      locks := { s.locks with rxLock := false } }

/-- `R_DRAIN` on a queue that looks empty (R162, R240): fatal when the count is not zero, and then
nothing but `hfault` changes; else the call ends, not complete. -/
def Obligations.DrainOnEmptyQueue : Prop :=
  ∀ s : State, rxAt .drain s = true → emptyR s = true →
    (countR s ≠ 0 →
      exec .rDrain s =
        .next { s with faults := { s.faults with hfault := .countNotZeroOnEmpty } }) ∧
    (countR s = 0 → exec .rDrain s = .next (partialResult s))

/-- The byte the decode engine pops next is `b`: the queue looks non-empty and its head cell holds it
(R63, R65, R67). -/
def Sys2Proof.Machine.headIs (b : Byte) (s : State) : Prop :=
  emptyR s = false ∧ Memory.read s.w.ring (s.rx.rptr % 2 ^ s.cfg.aw) = some b

/-- A terminator popped in `R_DRAIN`.  With nothing stored in this call it is noise (R164, R199); after
something was stored it completes the call (R165, R201): the count goes down by one in the same step,
and a checksummed SLIPMUX frame is reported two bytes shorter. -/
def Obligations.DrainOfATerminator : Prop :=
  ∀ (s : State) (i : Instr), i = .rDrain ∨ i = .drainTerminator →
    rxAt .drain s = true → headIs 0xC0#8 s →
    (s.rx.rcv = 0 → s.rx.mode = .slip → exec i s = .next (popByte s)) ∧
    (s.rx.rcv = 0 → s.rx.mode = .slipmux → exec i s = .next
      { popByte s with
        rx := { (popByte s).rx with first := true, typeValid := false } }) ∧
    (0 < s.rx.rcv → s.rx.mode = .slip → exec i s = .next
      { popByte s with
        rx := { (popByte s).rx with
          consumed := (s.rx.consumed + 1) % 2 ^ s.cfg.cw
          resLen := s.rx.rcv, resComplete := true, resTypeValid := false, resType := 0#8,
          resPending := false, done := true, state := .idle } }) ∧
    (0 < s.rx.rcv → s.rx.mode = .slipmux → exec i s = .next
      { popByte s with
        rx := { (popByte s).rx with
          consumed := (s.rx.consumed + 1) % 2 ^ s.cfg.cw
          resLen :=
            if s.rx.typeValid = true ∧ s.rx.typeReg = s.cfg.chkType ∧ 2 ≤ s.rx.rcv then
              s.rx.rcv - 2
            else s.rx.rcv
          resComplete := true, resTypeValid := s.rx.typeValid, resType := s.rx.typeReg,
          resPending := false, done := true, state := .idle }
        locks := { s.locks with rxLock := false } })

/-- The Type classes.  Encode (R182, R183): at `T_TYPE` a checksum Type is folded and any other is not;
after the payload a checksum Type appends `esc(lo) ++ esc(hi)`.  Decode (R201): the completion of a frame
of Type `t`, stripped for the checksum Type alone.  The rows' reach is the model's choice (log 10). -/
def Obligations.TypeRows : Prop :=
  (∀ (s : State) (t : Byte), txReady s = true → s.tx.mode = .slipmux → s.tx.type = t →
    (t = s.cfg.chkType → s.tx.chk = true → s.tx.state = .type →
      exec (.typeChecksum .tx t) s = .next
        { s with
          tx :=
            { s.tx with
              fcs := Config.crcUpdate s.tx.fcs t
              state := if 0 < s.tx.len then .pay else .clo }
          ghost := { s.ghost with sinkTrace := s.ghost.sinkTrace ++ [t] } }) ∧
    (∀ lo hi : Byte, t = s.cfg.chkType → s.tx.state = .clo → lo = (~~~s.tx.fcs).setWidth 8 →
      hi = ((~~~s.tx.fcs) >>> 8).setWidth 8 →
      exec (.typeChecksum .tx t) s = .next
        { s with
          tx :=
            { s.tx with
              hold :=
                if hi = 0xC0#8 then 0xDC#8
                else if hi = 0xDB#8 then 0xDD#8
                else if lo = 0xC0#8 then 0xDC#8
                else if lo = 0xDB#8 then 0xDD#8
                else s.tx.hold
              state := .trail }
          ghost := { s.ghost with sinkTrace := s.ghost.sinkTrace ++ (esc lo ++ esc hi) } }) ∧
    (t ≠ s.cfg.chkType → s.tx.chk = false → s.tx.state = .type →
      exec (.typePlain .tx t) s = .next
        { s with
          tx := { s.tx with state := if 0 < s.tx.len then .pay else .trail }
          ghost := { s.ghost with sinkTrace := s.ghost.sinkTrace ++ [t] } })) ∧
  (∀ (s : State) (t : Byte), rxAt .drain s = true → headIs 0xC0#8 s → 0 < s.rx.rcv →
    s.rx.mode = .slipmux → s.rx.typeValid = true → s.rx.typeReg = t →
    (t = s.cfg.chkType → exec (.typeChecksum .rx t) s = .next
      { popByte s with
        rx := { (popByte s).rx with
          consumed := (s.rx.consumed + 1) % 2 ^ s.cfg.cw
          resLen := if 2 ≤ s.rx.rcv then s.rx.rcv - 2 else s.rx.rcv
          resComplete := true, resTypeValid := true, resType := t,
          resPending := false, done := true, state := .idle }
        locks := { s.locks with rxLock := false } }) ∧
    (t ≠ s.cfg.chkType → exec (.typePlain .rx t) s = .next
      { popByte s with
        rx := { (popByte s).rx with
          consumed := (s.rx.consumed + 1) % 2 ^ s.cfg.cw
          resLen := s.rx.rcv
          resComplete := true, resTypeValid := true, resType := t,
          resPending := false, done := true, state := .idle }
        locks := { s.locks with rxLock := false } }))

/-- What delivering `d` leaves, the engine going on in `R_DRAIN` (R167, R168, R200): captured as the Type
while a SLIPMUX call waits for one; stored at the next offset while there is room; else dropped. -/
def Sys2Proof.Machine.deliveredTo (d : Byte) (s : State) : State :=
  if s.rx.mode = .slipmux ∧ s.rx.first = true then
    { s with rx := { s.rx with typeReg := d, typeValid := true, first := false, state := .drain } }
  else if s.rx.rcv < s.rx.cap then
    { s with
      rx := { s.rx with rcv := s.rx.rcv + 1, state := .drain }
      ghost := { s.ghost with dstTrace := s.ghost.dstTrace ++ [(s.rx.rcv, d)] } }
  else { s with rx := { s.rx with state := .drain } }

/-- In `R_DRAIN` a popped `0xDB` stores nothing and changes only `rx_state` (R163); any byte but it and
the terminator is delivered unchanged (R167, R168, R200). -/
def Obligations.DrainOfOtherBytes : Prop :=
  (∀ (s : State) (i : Instr), i = .rDrain ∨ i = .drainEscape →
    rxAt .drain s = true → headIs 0xDB#8 s →
    exec i s = .next { popByte s with rx := { (popByte s).rx with state := .esc } }) ∧
  (∀ (s : State) (b : Byte) (i : Instr), i = .rDrain ∨ i = .drainOther b →
    rxAt .drain s = true → s.rx.cap < 2 ^ s.cfg.lw → headIs b s → b ≠ 0xC0#8 → b ≠ 0xDB#8 →
    exec i s = .next (deliveredTo b (popByte s)))

/-- `R_ESC` delivers the unescaped follower, whatever it is, and goes back to `R_DRAIN` (R166); on a
queue that looks empty it ends the call, not complete, without testing the count. -/
def Obligations.EscStepDeliversTheFollower : Prop :=
  (∀ (s : State) (f : Byte) (i : Instr),
    i = .rEsc ∨ (f = 0xDC#8 ∧ i = .escEscapedTerminator) ∨ (f = 0xDD#8 ∧ i = .escEscapedEscape) ∨
      (f ≠ 0xDC#8 ∧ f ≠ 0xDD#8 ∧ i = .escOther f) →
    rxAt .esc s = true → s.rx.cap < 2 ^ s.cfg.lw → headIs f s →
    exec i s = .next (deliveredTo
      (if f = 0xDC#8 then 0xC0#8 else if f = 0xDD#8 then 0xDB#8 else f) (popByte s))) ∧
  (∀ s : State, rxAt .esc s = true → emptyR s = true → exec .rEsc s = .next (partialResult s))

/-- A whole quiescent `SLIP_DEC` call (R172): the decode engine alone, from the start step, ends as the
function `slipDec` of the visible queue, the count and the capacity says. -/
def Obligations.SlipDecodeCallIsTheFunction : Prop :=
  ∀ (s : State) (q cap : Nat) (e : CallEnd), QueueInv s → q < s.cfg.nreq →
    cap < 2 ^ s.cfg.lw → plainMayStart .rx s →
    e = slipDec (visibleQueue s) (countR s) cap →
    ∃ t u, exec (.slipDec q cap) s = .next t ∧ u = rxRun ((visibleQueue s).length + 1) t ∧
      u.ghost.dstTrace = (List.range e.out.length).zip e.out ∧
      visibleQueue u = e.rest ∧
      (e.fatal = true → u.faults.hfault = .countNotZeroOnEmpty ∧ u.rx.done = false) ∧
      (e.fatal = false →
        u.faults = s.faults ∧ u.rx.state = .idle ∧ u.rx.done = true ∧ u.rx.resLen = e.len ∧
        u.rx.resComplete = e.complete) ∧
      u.rx.consumed =
        (if e.complete = true then (s.rx.consumed + 1) % 2 ^ s.cfg.cw else s.rx.consumed)

/-- A whole quiescent `SMX_DEC` call (R209), from its posting and its grant. -/
def Obligations.SmxDecodeCallIsTheFunction : Prop :=
  ∀ (s : State) (q cap : Nat) (st : DecodeState) (e : CallEnd), QueueInv s → SlotInv s →
    q < s.cfg.nreq → cap < 2 ^ s.cfg.lw → hostHalted s = false → requested .rx q s = false →
    s.rx.state = .idle → s.locks.rxLock = false →
    e = smxDec s.cfg (visibleQueue s) (countR s) cap (typeOption st) →
    ∃ t u, execAll [.smxDec q cap st, .lockGrant .rx q] s = .next t ∧
      u = rxRun ((visibleQueue s).length + 1) t ∧
      u.ghost.dstTrace = (List.range e.out.length).zip e.out ∧
      visibleQueue u = e.rest ∧
      (e.fatal = true →
        u.faults.hfault = .countNotZeroOnEmpty ∧ u.rx.done = false ∧ u.locks.rxLock = true) ∧
      (e.fatal = false →
        u.faults = s.faults ∧ u.rx.state = .idle ∧ u.rx.done = true ∧ u.locks.rxLock = false ∧
        u.rx.resLen = e.len ∧ u.rx.resComplete = e.complete ∧
        (if u.rx.resTypeValid = true then some u.rx.resType else none) = e.type ∧
        (countR s = 0 → u.rx.resPending = st.pending ∧ u.rx.resType = st.type) ∧
        (countR s ≠ 0 → u.rx.resPending = (e.type.isSome && !e.complete))) ∧
      u.rx.consumed =
        (if e.complete = true then (s.rx.consumed + 1) % 2 ^ s.cfg.cw else s.rx.consumed)

/-- Decoding a SLIP frame gives its payload back, cut to the capacity without a sign (R173, R174). -/
def Obligations.SlipDecodeInvertsTheFrame : Prop :=
  ∀ (x rest : List Byte) (count cap : Nat), x ≠ [] → 1 ≤ cap → count ≠ 0 →
    slipDec (slipFrame x ++ rest) count cap =
      { out := x.take cap, len := min cap x.length, type := none, complete := true,
        rest := rest, fatal := false }

/-- Decoding a SLIPMUX frame gives its Type and payload back; a checksum Type's last two stored bytes are
taken for the checksum and left out of the length (R206, R210). -/
def Obligations.SmxDecodeInvertsTheFrame : Prop :=
  ∀ (c : Params) (t : Byte) (p body rest : List Byte) (count cap : Nat),
    t ≠ 0xC0#8 → t ≠ 0xDB#8 → 1 ≤ cap → count ≠ 0 →
    body = p ++ (if t = c.chkType then
      [fcsLow (crcFold c.crcInit (t :: p)), fcsHigh (crcFold c.crcInit (t :: p))] else []) →
    body ≠ [] →
    smxDec c (smxFrame c t p ++ rest) count cap none =
      { out := body.take cap
        len := if t = c.chkType ∧ 2 ≤ min cap body.length then min cap body.length - 2
          else min cap body.length
        type := some t, complete := true, rest := rest, fatal := false }

/-- The SLIP round trip on the machine (R173): encode, feed the sink's bytes back, synchronise, decode.
From a queue that is empty, with count 0 and `lastByte = 0xC0`, the packet comes back complete and the
queue is empty again with count 0. -/
def Obligations.SlipRoundTrip : Prop :=
  ∀ (s : State) (q cap : Nat) (x : List Byte), QueueInv s → SlotInv s → faultFree s = true →
    q < s.cfg.nreq → cap < 2 ^ s.cfg.lw → 1 ≤ x.length → x.length ≤ cap →
    (slipFrame x).length ≤ s.cfg.depth → plainMayStart .tx s → plainMayStart .rx s →
    s.env.sinkReady = true → s.ghost.pushes = s.ghost.pops → s.ghost.ir = s.ghost.pops →
    s.w.closed = s.rx.consumed → s.w.lastByte = 0xC0#8 →
    ∃ t0 t1 t2 t3 t4,
      exec (.slipEnc q x.length x) s = .next t0 ∧
      t1 = txRun (slipFrame x).length t0 ∧
      t1.ghost.sinkTrace = s.ghost.sinkTrace ++ slipFrame x ∧
      execAll (feedProgram (slipFrame x)) t1 = .next t2 ∧
      execAll (syncProgram t2) t2 = .next t3 ∧
      exec (.slipDec q cap) t3 = .next t4 ∧
      (rxRun (slipFrame x).length t4).rx.resLen = x.length ∧
      (rxRun (slipFrame x).length t4).rx.resComplete = true ∧
      (rxRun (slipFrame x).length t4).rx.done = true ∧
      (rxRun (slipFrame x).length t4).ghost.dstTrace = (List.range x.length).zip x ∧
      emptyR (rxRun (slipFrame x).length t4) = true ∧
      countR (rxRun (slipFrame x).length t4) = 0 ∧
      faultFree (rxRun (slipFrame x).length t4) = true

/-- The SLIPMUX round trip on the machine (R210): encode, feed the sink's bytes back, synchronise,
decode with no Type.  The payload comes back complete with its Type, the checksum of a checksum Type left
out of the length, the queue is empty again with count 0, and both calls have ended and released their
locks. -/
def Obligations.SmxRoundTrip : Prop :=
  ∀ (s : State) (q cap : Nat) (ty : Byte) (x : List Byte) (st : DecodeState), QueueInv s →
    SlotInv s → faultFree s = true → q < s.cfg.nreq → cap < 2 ^ s.cfg.lw → 1 ≤ x.length →
    ty ≠ 0xC0#8 → ty ≠ 0xDB#8 → x.length + (if ty = s.cfg.chkType then 2 else 0) ≤ cap →
    (smxFrame s.cfg ty x).length ≤ s.cfg.depth → st.typeValid = false →
    requested .tx q s = false → s.tx.state = .idle → s.locks.txLock = false →
    requested .rx q s = false → s.rx.state = .idle → s.locks.rxLock = false →
    s.env.sinkReady = true → s.ghost.pushes = s.ghost.pops → s.ghost.ir = s.ghost.pops →
    s.w.closed = s.rx.consumed → s.w.lastByte = 0xC0#8 →
    ∃ t0 t1 t2 t3 t4 u,
      execAll [.smxEnc q ty x.length x, .lockGrant .tx q] s = .next t0 ∧
      t1 = txRun (smxFrame s.cfg ty x).length t0 ∧
      t1.ghost.sinkTrace = s.ghost.sinkTrace ++ smxFrame s.cfg ty x ∧
      execAll (feedProgram (smxFrame s.cfg ty x)) t1 = .next t2 ∧
      execAll (syncProgram t2) t2 = .next t3 ∧
      execAll [.smxDec q cap st, .lockGrant .rx q] t3 = .next t4 ∧
      u = rxRun (smxFrame s.cfg ty x).length t4 ∧
      u.rx.resLen = x.length ∧ u.rx.resComplete = true ∧ u.rx.resTypeValid = true ∧
      u.rx.resType = ty ∧ u.rx.resPending = false ∧ u.rx.done = true ∧
      u.ghost.dstTrace.take x.length = (List.range x.length).zip x ∧
      emptyR u = true ∧ countR u = 0 ∧ faultFree u = true ∧ u.locks.rxLock = false ∧
      u.rx.state = .idle ∧ u.locks.txLock = false ∧ u.tx.state = .idle

/-! ### The guard -/

/-- Posting a SLIPMUX command (R217): the request bit, the wait counter, and the fields held on the
ports; after a fault the host domain has seen, nothing (R241, log 18). -/
def Obligations.SlipmuxPostsRaiseTheRequest : Prop :=
  ∀ (s : State) (q : Nat), q < s.cfg.nreq →
    (∀ (t : Byte) (len : Nat) (p : List Byte),
      (hostHalted s = false → slotBusy .tx q s = false →
        exec (.smxEnc q t len p) s = .next
          { s with
            locks :=
              { s.locks with
                txReq := s.locks.txReq.set q true, txWait := s.locks.txWait.set q 0 }
            env :=
              { s.env with
                txCmd := s.env.txCmd.set q { type := t, len := len, payload := p } } }) ∧
      (hostHalted s = true → exec (.smxEnc q t len p) s = .next s)) ∧
    (∀ (cap : Nat) (st : DecodeState),
      (hostHalted s = false → slotBusy .rx q s = false →
        exec (.smxDec q cap st) s = .next
          { s with
            locks :=
              { s.locks with
                rxReq := s.locks.rxReq.set q true, rxWait := s.locks.rxWait.set q 0 }
            env :=
              { s.env with
                rxCmd := s.env.rxCmd.set q { cap := cap, stIn := st } } }) ∧
      (hostHalted s = true → exec (.smxDec q cap st) s = .next s))

/-- Posting on a slot whose request is pending or whose call is running has no meaning (R217, U28): the
model refuses it (log 15); a slot the block does not have is a fault (log 16). -/
def Obligations.PostsOutsideTheProtocolStop : Prop :=
  ∀ (s : State) (q : Nat),
    (q < s.cfg.nreq → hostHalted s = false → slotBusy .tx q s = true → ∀ t len p,
      exec (.smxEnc q t len p) s = .refused (.slotBusy .tx q)) ∧
    (q < s.cfg.nreq → hostHalted s = false → slotBusy .rx q s = true → ∀ cap st,
      exec (.smxDec q cap st) s = .refused (.slotBusy .rx q)) ∧
    (s.cfg.nreq ≤ q →
      (∀ len p, exec (.slipEnc q len p) s = .fault (.noSuchRequester q)) ∧
      (∀ t len p, exec (.smxEnc q t len p) s = .fault (.noSuchRequester q)) ∧
      (∀ cap, exec (.slipDec q cap) s = .fault (.noSuchRequester q)) ∧
      (∀ cap st, exec (.smxDec q cap st) s = .fault (.noSuchRequester q)) ∧
      (∀ d, exec (.lockGrant d q) s = .fault (.noSuchRequester q)) ∧
      (∀ d, exec (.lockTimeout d q) s = .fault (.noSuchRequester q)))

/-- The grant of the transmit lock (R217, R181): lock, request and wait counter, and the start of the
call, in one step. -/
def Obligations.TransmitGrantStartsTheCall : Prop :=
  ∀ (s : State) (q : Nat) (port : TxPort), q < s.cfg.nreq →
    requested .tx q s = true → s.locks.txLock = false → s.tx.state = .idle →
    hostHalted s = false → s.env.txCmd[q]? = some port → port.len < 2 ^ s.cfg.lw →
    exec (.lockGrant .tx q) s = .next
      { s with
        locks :=
          { s.locks with
            txLock := true
            txReq := s.locks.txReq.set q false
            txWait := s.locks.txWait.set q 0 }
        tx :=
          { s.tx with
            mode := .slipmux, type := port.type, chk := decide (port.type = s.cfg.chkType),
            len := port.len, idx := 0, fcs := s.cfg.crcInit, owner := q, done := false,
            state := .lead }
        ghost := { s.ghost with grants := s.ghost.grants ++ [(.tx, q)] } }

/-- The grant of the receive lock (R217, R196, R197): with no completed packet visible the call returns
`(0, stIn, false)` and releases the lock in the same step. -/
def Obligations.ReceiveGrantStartsTheCall : Prop :=
  ∀ (s : State) (q : Nat) (port : RxPort), q < s.cfg.nreq →
    requested .rx q s = true → s.locks.rxLock = false → s.rx.state = .idle →
    hostHalted s = false → s.env.rxCmd[q]? = some port → port.cap < 2 ^ s.cfg.lw →
    (countR s = 0 →
      exec (.lockGrant .rx q) s = .next
        { s with
          locks :=
            { s.locks with
              rxLock := false
              rxReq := s.locks.rxReq.set q false
              rxWait := s.locks.rxWait.set q 0 }
          rx :=
            { s.rx with
              mode := .slipmux, cap := port.cap, owner := q, rcv := 0,
              first := !port.stIn.typeValid, typeValid := port.stIn.typeValid,
              typeReg := port.stIn.type, pendIn := port.stIn.pending,
              resLen := 0, resComplete := false, resTypeValid := port.stIn.typeValid,
              resType := port.stIn.type, resPending := port.stIn.pending,
              done := true, state := .idle }
          ghost :=
            { s.ghost with dstTrace := [], grants := s.ghost.grants ++ [(.rx, q)] } }) ∧
    (countR s ≠ 0 →
      exec (.lockGrant .rx q) s = .next
        { s with
          locks :=
            { s.locks with
              rxLock := true
              rxReq := s.locks.rxReq.set q false
              rxWait := s.locks.rxWait.set q 0 }
          rx :=
            { s.rx with
              mode := .slipmux, cap := port.cap, owner := q, rcv := 0,
              first := !port.stIn.typeValid, typeValid := port.stIn.typeValid,
              typeReg := port.stIn.type, pendIn := port.stIn.pending,
              done := false, state := .drain }
          ghost :=
            { s.ghost with dstTrace := [], grants := s.ghost.grants ++ [(.rx, q)] } })

/-- The row `LOCK_RELEASE` of the receive lock is the step that ends the `SMX_DEC` call it is part of
(R220, R202; log 12): exit X2 in `R_ESC`, the completion X1, exit X3 in `R_DRAIN`.  Where the engine is
not about to end such a call it changes nothing. -/
def Obligations.ReceiveReleaseEndsTheCall : Prop :=
  ∀ s : State,
    (hostHalted s = false → s.rx.mode = .slipmux →
      (s.rx.state = .esc → emptyR s = true →
        exec (.lockRelease .rx) s = .next (partialResult s)) ∧
      (s.rx.state = .drain → emptyR s = true → countR s = 0 →
        exec (.lockRelease .rx) s = .next (partialResult s)) ∧
      (s.rx.state = .drain → headIs 0xC0#8 s → 0 < s.rx.rcv →
        exec (.lockRelease .rx) s = exec .drainTerminator s ∧
        ∃ t, exec (.lockRelease .rx) s = .next t ∧ t.locks = { s.locks with rxLock := false })) ∧
    (hostHalted s = true ∨ s.rx.mode = .slip ∨ rxEnds s = false →
      exec (.lockRelease .rx) s = .next s)

/-- The timeout without time (R222): enabled whenever a request is blocked, it records the direction's
code and does nothing else. -/
def Obligations.TimeoutOfABlockedRequestIsFatal : Prop :=
  ∀ (s : State) (d : Dir) (q : Nat), q < s.cfg.nreq → hostHalted s = false →
    blocked d q s = true →
    exec (.lockTimeout d q) s = .next { s with faults := { s.faults with
      hfault := match d with
        | .tx => .txLockTimeout
        | .rx => .rxLockTimeout } }

/-- A lock is held exactly while a SLIPMUX call of its direction runs, and every step keeps that (R217,
R220, R224). -/
def Obligations.StepKeepsLockInv : Prop :=
  ∀ s t : State, LockInv s → step s = .next t → LockInv t

/-- Every step keeps the encode engine where the rules put it (R32, R152 to R155, R181 to R187). -/
def Obligations.StepKeepsTxInv : Prop :=
  ∀ s t : State, TxInv s → step s = .next t → TxInv t

/-- Every step keeps the decode engine where the rules put it: within its capacity, its destination
writes at rising offsets (R30, R40, R71, R72). -/
def Obligations.StepKeepsRxInv : Prop :=
  ∀ s t : State, RxInv s → step s = .next t → RxInv t

/-- Every step keeps one request bit and one wait counter per slot, owners that are slots, and counters
that do not pass `LOCK_TIMEOUT` (R33, R36). -/
def Obligations.StepKeepsSlotInv : Prop :=
  ∀ s t : State, SlotInv s → step s = .next t → SlotInv t

/-! ### The halt -/

/-- After a fault a domain has recorded or learned of, nothing but a reset changes what its agents write,
neither an operation nor any entry of the schedule: in the host domain the engines, the locks with their
wait counters, `hfault` and everything they give out; in the write domain its registers, the ring and
`wfault` (R241, R242). -/
def Obligations.HaltedDomainsAreFrozen : Prop :=
  (∀ s t : State, s.faults.hfault ≠ .none ∨ s.views.wfaultH = true →
    (∀ i : Instr, (∀ l, i ≠ .reset l) → exec i s = .next t → hostFrozen s t) ∧
    (FaultViewInv s → (∀ e ∈ s.env.script.head?, e.resets = false) → step s = .next t →
      hostFrozen s t)) ∧
  (∀ s t : State, s.faults.wfault = true ∨ s.views.hfaultW = true →
    (∀ i : Instr, (∀ l, i ≠ .reset l) → exec i s = .next t → writeFrozen s t) ∧
    (FaultViewInv s → (∀ e ∈ s.env.script.head?, e.resets = false) → step s = .next t →
      writeFrozen s t))

/-- A fault register, once non-zero, is never written again until reset, by an operation or by any entry
of the schedule (R236); a fault that a domain has learned of stays one that is recorded (R241); and
`fault_code` and `w_fault` show the registers in every state (R237). -/
def Obligations.FaultRegistersAreSticky : Prop :=
  (∀ s t : State,
    (∃ i : Instr, (∀ l, i ≠ .reset l) ∧ exec i s = .next t) ∨
      ((∀ e ∈ s.env.script.head?, e.resets = false) ∧ step s = .next t) →
    (s.faults.wfault = true → t.faults.wfault = true) ∧
    (s.faults.hfault ≠ .none → t.faults.hfault = s.faults.hfault)) ∧
  (∀ s t : State, FaultViewInv s → step s = .next t → FaultViewInv t) ∧
  (∀ s : State,
    (s.faults.hfault = .countNotZeroOnEmpty → (outputs s).faultCode = 2#3) ∧
    (s.faults.hfault = .txLockTimeout → (outputs s).faultCode = 3#3) ∧
    (s.faults.hfault = .rxLockTimeout → (outputs s).faultCode = 4#3) ∧
    (s.faults.hfault = .none → s.views.wfaultH = true → (outputs s).faultCode = 1#3) ∧
    (s.faults.hfault = .none → s.views.wfaultH = false → (outputs s).faultCode = 0#3) ∧
    (outputs s).wFault = s.faults.wfault)

/-- The timed form of the timeout (R218, R221): in a `clk` cycle a request that is blocked and has waited
`LOCK_TIMEOUT` raises, with the code of its direction, the lower code where both directions have one
(R246(b)); else the counter of every blocked request goes up by one and no other does.  After a fault a
cycle changes nothing (R241).  A `LOCK_TIMEOUT` listed in a cycle raises at the cycle's end (R222), and a
request that becomes grantable in the cycle and is granted raises nothing, its counter run out or its
timeout listed (R221, R246(d)), in either direction.  The cycle as an entry of the schedule is the model's
form (log 19, log 22). -/
def Obligations.ClockTickRunsTheWaitCounters : Prop :=
  (∀ (s : State) (rest : List Event) (q : Nat), s.env.script = .tick :: rest → SlotInv s →
    q < s.cfg.nreq →
    (hostHalted s = true → step s = .next { s with env := { s.env with script := rest } }) ∧
    (hostHalted s = false → blocked .tx q s = true →
      s.locks.txWait.getD q 0 = s.cfg.lockTimeout →
      step s = .next
        { s with
          faults := { s.faults with hfault := .txLockTimeout }
          env := { s.env with script := rest } }) ∧
    (hostHalted s = false → blocked .rx q s = true →
      s.locks.rxWait.getD q 0 = s.cfg.lockTimeout →
      (∀ k, blocked .tx k s = true → s.locks.txWait.getD k 0 ≠ s.cfg.lockTimeout) →
      step s = .next
        { s with
          faults := { s.faults with hfault := .rxLockTimeout }
          env := { s.env with script := rest } }) ∧
    (hostHalted s = false →
      (∀ d k, blocked d k s = true → (waits d s).getD k 0 ≠ s.cfg.lockTimeout) →
      ∃ t, step s = .next t ∧ t.faults = s.faults ∧
        t.locks.txWait.getD q 0 =
          s.locks.txWait.getD q 0 + (if blocked .tx q s = true then 1 else 0) ∧
        t.locks.rxWait.getD q 0 =
          s.locks.rxWait.getD q 0 + (if blocked .rx q s = true then 1 else 0))) ∧
  (∀ (s : State) (rest : List Event) (pws : List PortWord) (q : Nat),
    s.env.script = .cycle pws :: rest → s.env.strobes = [] → SlotInv s → q < s.cfg.nreq →
    hostHalted s = false →
    (pws = [.internalStep (.lockTimeout .tx q)] → blocked .tx q s = true →
      step s = .next
        { s with
          faults := { s.faults with hfault := .txLockTimeout }
          env := { s.env with script := rest } }) ∧
    (pws = [.internalStep (.lockTimeout .rx q)] → blocked .rx q s = true →
      (∀ k, blocked .tx k s = true → s.locks.txWait.getD k 0 ≠ s.cfg.lockTimeout) →
      step s = .next
        { s with
          faults := { s.faults with hfault := .rxLockTimeout }
          env := { s.env with script := rest } }) ∧
    (pws = [.internalStep (.lockRelease .rx), .internalStep (.lockGrant .rx q)] ∨
        pws = [.internalStep (.lockTimeout .rx q), .internalStep (.lockRelease .rx),
          .internalStep (.lockGrant .rx q)] →
      s.rx.mode = .slipmux → rxEnds s = true → requested .rx q s = true →
      (∀ k, blocked .tx k s = true → s.locks.txWait.getD k 0 ≠ s.cfg.lockTimeout) →
      ∃ t, step s = .next t ∧ t.faults = s.faults ∧ requested .rx q t = false ∧
        t.rx.owner = q ∧ t.ghost.grants = s.ghost.grants ++ [(.rx, q)]) ∧
    (pws = [.internalStep (.lockRelease .tx), .internalStep (.lockGrant .tx q)] ∨
        pws = [.internalStep (.lockTimeout .tx q), .internalStep (.lockRelease .tx),
          .internalStep (.lockGrant .tx q)] →
      s.tx.mode = .slipmux → s.tx.state = .trail → s.env.sinkReady = true →
      requested .tx q s = true →
      (∀ k, blocked .rx k s = true → s.locks.rxWait.getD k 0 ≠ s.cfg.lockTimeout) →
      ∃ t, step s = .next t ∧ t.faults = s.faults ∧ requested .tx q t = false ∧
        t.tx.owner = q ∧ t.ghost.grants = s.ghost.grants ++ [(.tx, q)]))

/-- The command starts of one `clk` cycle see each other, in either direction.  Posts: two plain commands
of different requesters are both refused (R225); a plain one beside a SLIPMUX one is refused and the other
posted, in whichever order they are listed (R224); beside that the cycle does what an empty one does.
Grants: of two grantable requests of one direction the one listed first is granted and the other goes on
waiting, while a transmit and a receive grant both happen (R219, R287); a plain command in a cycle in
whose beginning a request waits is refused, before and after the grant of the request (R224, C10).  A
command that starts in the edge in which the decode engine raises takes effect, and its engine then has no
further step; with the fault there before the cycle it does not start (R246(e)).  The cycle and the marks
are the model's form (log 22, log 14). -/
def Obligations.PostsOfOneCycle : Prop :=
  (∀ (s : State) (rest : List Event) (q q' cap cap' : Nat) (st : DecodeState),
    s.env.strobes = [] → q < s.cfg.nreq → q' < s.cfg.nreq → q ≠ q' →
    cap < 2 ^ s.cfg.lw → cap' < 2 ^ s.cfg.lw →
    ∃ u, step { s with env := { s.env with script := .cycle [] :: rest } } = .next u ∧
      u.rx = s.rx ∧
      (s.env.script = .cycle [.rxCommand q 0#1 cap st, .rxCommand q' 0#1 cap' st] :: rest →
        step s = .next { u with ghost := { u.ghost with
          refusedPosts := s.ghost.refusedPosts ++ [(.rx, q), (.rx, q')] } }) ∧
      (∀ pws : List PortWord, s.env.script = .cycle pws :: rest →
        pws = [.rxCommand q 0#1 cap st, .rxCommand q' 1#1 cap' st] ∨
          pws = [.rxCommand q' 1#1 cap' st, .rxCommand q 0#1 cap st] →
        hostHalted s = false → slotBusy .rx q' s = false →
        ∃ t, step s = .next t ∧ t.rx = u.rx ∧ t.faults = u.faults ∧
          t.locks = { u.locks with
            rxReq := u.locks.rxReq.set q' true, rxWait := u.locks.rxWait.set q' 0 } ∧
          t.ghost = { u.ghost with refusedPosts := s.ghost.refusedPosts ++ [(.rx, q)] })) ∧
  (∀ (s : State) (rest : List Event) (q q' len len' : Nat) (ty : Byte) (p p' : List Byte),
    s.env.strobes = [] → q < s.cfg.nreq → q' < s.cfg.nreq → q ≠ q' →
    len < 2 ^ s.cfg.lw → len' < 2 ^ s.cfg.lw →
    ∃ u, step { s with env := { s.env with script := .cycle [] :: rest } } = .next u ∧
      u.tx = s.tx ∧
      (s.env.script = .cycle [.txCommand q 0#1 ty len p, .txCommand q' 0#1 ty len' p'] :: rest →
        step s = .next { u with ghost := { u.ghost with
          refusedPosts := s.ghost.refusedPosts ++ [(.tx, q), (.tx, q')] } }) ∧
      (∀ pws : List PortWord, s.env.script = .cycle pws :: rest →
        pws = [.txCommand q 0#1 ty len p, .txCommand q' 1#1 ty len' p'] ∨
          pws = [.txCommand q' 1#1 ty len' p', .txCommand q 0#1 ty len p] →
        hostHalted s = false → slotBusy .tx q' s = false →
        ∃ t, step s = .next t ∧ t.tx = u.tx ∧ t.faults = u.faults ∧
          t.locks = { u.locks with
            txReq := u.locks.txReq.set q' true, txWait := u.locks.txWait.set q' 0 } ∧
          t.ghost = { u.ghost with refusedPosts := s.ghost.refusedPosts ++ [(.tx, q)] })) ∧
  (∀ (s : State) (rest : List Event) (pws : List PortWord) (d : Dir) (q q' len cap : Nat) (ty : Byte)
      (p : List Byte) (st : DecodeState),
    s.env.script = .cycle pws :: rest → s.env.strobes = [] → q < s.cfg.nreq → q' < s.cfg.nreq →
    len < 2 ^ s.cfg.lw → cap < 2 ^ s.cfg.lw →
    (pws = [.internalStep (.lockGrant d q), .internalStep (.lockGrant d q')] → q ≠ q' →
      grantable d q s = true → grantable d q' s = true →
      ∃ t, step s = .next t ∧ requested d q t = false ∧ requested d q' t = true ∧
        ownerOf d t = q ∧ t.ghost.grants = s.ghost.grants ++ [(d, q)]) ∧
    (pws = [.internalStep (.lockGrant .tx q), .internalStep (.lockGrant .rx q')] →
      grantable .tx q s = true → grantable .rx q' s = true →
      ∃ t, step s = .next t ∧ requested .tx q t = false ∧ requested .rx q' t = false ∧
        t.tx.owner = q ∧ t.rx.owner = q' ∧
        t.ghost.grants = s.ghost.grants ++ [(.tx, q), (.rx, q')]) ∧
    (∀ plain : PortWord,
      d = .tx ∧ plain = .txCommand q' 0#1 ty len p ∨ d = .rx ∧ plain = .rxCommand q' 0#1 cap st →
      pws = [.internalStep (.lockGrant d q), plain] ∨ pws = [plain, .internalStep (.lockGrant d q)] →
      grantable d q s = true →
      ∃ t, step s = .next t ∧ requested d q t = false ∧ ownerOf d t = q ∧
        t.ghost.grants = s.ghost.grants ++ [(d, q)] ∧
        t.ghost.refusedPosts = s.ghost.refusedPosts ++ [(d, q')])) ∧
  (∀ (s : State) (rest : List Event) (q len : Nat) (ty : Byte) (p : List Byte),
    s.env.strobes = [] → q < s.cfg.nreq → len < 2 ^ s.cfg.lw →
    s.env.script = .cycle [.rxStep 1#2, .txCommand q 0#1 ty len p] :: rest →
    (plainMayStart .tx s → rxAt .drain s = true → emptyR s = true → countR s ≠ 0 →
      ∃ t, step s = .next t ∧ t.faults.hfault = .countNotZeroOnEmpty ∧ t.tx.state = .lead ∧
        t.tx.len = len ∧ t.tx.owner = q ∧ t.rx = s.rx ∧
        t.ghost = { s.ghost with grants := s.ghost.grants ++ [(.tx, q)] } ∧
        exec .tLead t = .next t) ∧
    (hostHalted s = true →
      ∃ t, step s = .next t ∧ t.tx = s.tx ∧ t.rx = s.rx ∧
        t.ghost = { s.ghost with refusedPosts := s.ghost.refusedPosts ++ [(.tx, q)] }))

/-! ### Clean traffic -/

/-- The safety statement of R256: over clean traffic that never meets a full queue, with one requester per
direction and decodes of the matching kind, no fault is ever raised, and the source's invariant of R123
holds in every state in which no decode call runs.  The runs are the interleavings of one port word at a
time and of the environment's actions, from reset (log 4). -/
def Obligations.CleanTrafficNeverFaults : Prop :=
  ∀ (c : Params) (tr : Traffic) (t : State), c.wf = true →
    (∀ p ∈ tr.packets, p.clean = true) → tr.Run (State.resetFor c (Env.reset c)) t →
    faultFree t = true ∧ (t.rx.state = .idle → countsPackets t)
end

