-- ==== Sys2Proof/Laws/Memory.lean ====
section
/-! SUPPORT. The laws of the ring's storage: read after write, and that every operation on it keeps the
canonical form. -/

namespace Sys2Proof.Machine

/-- Reading a cell just written gives what was written. -/
@[simp] theorem Memory.read_write_same (m : Memory) (i : Nat) (v : Byte) :
    Memory.read (Memory.write m i v) i = some v := by
  induction m with
  | nil => simp [Memory.write, Memory.read]
  | cons c m ih =>
    obtain ⟨a, b⟩ := c
    simp only [Memory.write]
    split
    · simp [Memory.read]
    · split
      · simp [Memory.read]
      · rename_i hne
        have : a ≠ i := fun h => hne h.symm
        simp [Memory.read, this, ih]

/-- A write leaves every other cell alone. -/
theorem Memory.read_write_other (m : Memory) (i j : Nat) (v : Byte) (h : j ≠ i) :
    Memory.read (Memory.write m i v) j = Memory.read m j := by
  induction m with
  | nil => simp [Memory.write, Memory.read, h.symm]
  | cons c m ih =>
    obtain ⟨a, b⟩ := c
    simp only [Memory.write]
    split
    · simp [Memory.read, h.symm]
    · split
      · rename_i hia
        have : a ≠ j := fun e => h (e ▸ hia.symm)
        simp [Memory.read, h.symm, this]
      · simp [Memory.read, ih]

/-- Both laws as one. -/
theorem Memory.read_write (m : Memory) (i j : Nat) (v : Byte) :
    Memory.read (Memory.write m i v) j = if j = i then some v else Memory.read m j := by
  split
  · rename_i h; subst h; simp
  · rename_i h; exact Memory.read_write_other m i j v h

/-- Canonical storage: the first index is below the second, and the rest is canonical. -/
theorem Memory.wf_cons (c : Host.Cell) (m : Memory) :
    Memory.wf (c :: m) = true ↔ (∀ c' ∈ m.head?, c.1 < c'.1) ∧ Memory.wf m = true := by
  cases m with
  | nil => simp [Memory.wf]
  | cons c' m => obtain ⟨a, b⟩ := c; obtain ⟨a', b'⟩ := c'; simp [Memory.wf]

/-- The first index after a write is the old first one or the one written. -/
theorem Memory.head_write (m : Memory) (i : Nat) (v : Byte) (c : Host.Cell)
    (h : c ∈ (Memory.write m i v).head?) : c.1 = i ∨ ∃ c' ∈ m.head?, c'.1 = c.1 := by
  cases m with
  | nil => simp [Memory.write] at h; simp [← h]
  | cons c' m =>
    obtain ⟨a, b⟩ := c'
    simp only [Memory.write] at h
    split at h
    · simp at h; simp [← h]
    · split at h
      · simp at h; simp [← h]
      · simp at h; simp [← h]

/-- A write keeps the canonical form. -/
theorem Memory.wf_write (m : Memory) (i : Nat) (v : Byte) (h : Memory.wf m = true) :
    Memory.wf (Memory.write m i v) = true := by
  induction m with
  | nil => simp [Memory.write, Memory.wf]
  | cons c m ih =>
    obtain ⟨a, b⟩ := c
    obtain ⟨hhead, htail⟩ := (Memory.wf_cons _ _).1 h
    simp only [Memory.write]
    split
    · rename_i hlt
      exact (Memory.wf_cons _ _).2 ⟨by simpa using hlt, h⟩
    · split
      · rename_i _ heq
        subst heq
        exact (Memory.wf_cons _ _).2 ⟨hhead, htail⟩
      · rename_i hge hne
        refine (Memory.wf_cons _ _).2 ⟨fun c' hc' => ?_, ih htail⟩
        rcases Memory.head_write m i v c' hc' with h' | ⟨c'', hm, h'⟩
        · simp only [h']; omega
        · rw [← h']; exact hhead c'' hm

/-- A cell of the storage after a write is the one written or an old one. -/
theorem Memory.mem_write (m : Memory) (i : Nat) (v : Byte) (c : Host.Cell)
    (h : c ∈ Memory.write m i v) : c = (i, v) ∨ c ∈ m := by
  induction m with
  | nil => simpa [Memory.write] using h
  | cons c' m ih =>
    obtain ⟨a, b⟩ := c'
    simp only [Memory.write] at h
    split at h
    · simpa using h
    · split at h
      · rcases List.mem_cons.1 h with h | h
        · exact .inl h
        · exact .inr (List.mem_cons_of_mem _ h)
      · rcases List.mem_cons.1 h with h | h
        · exact .inr (by simp [h])
        · rcases ih h with h | h
          · exact .inl h
          · exact .inr (List.mem_cons_of_mem _ h)

/-- The storage after reset is canonical. -/
theorem State.resetFor_ring_wf (c : Params) (e : Env) :
    Memory.wf (State.resetFor c e).w.ring = true := rfl

/-- The storage of `State.reset` is canonical. -/
theorem State.reset_ring_wf : Memory.wf State.reset.w.ring = true := rfl

end Sys2Proof.Machine
end

