-- ==== Sys2Proof/Laws/State.lean ====
section
/-! SUPPORT. One lemma per field of the State per named update: what the update leaves of that field, so
that no later proof unfolds a record update. -/

namespace Sys2Proof.Machine

/-! `pushByte` -/

@[simp] theorem pushByte_cfg (b : Byte) (s : State) :
    (pushByte b s).cfg = s.cfg := rfl
@[simp] theorem pushByte_w (b : Byte) (s : State) :
    (pushByte b s).w = { s.w with
      ring := Memory.write s.w.ring (ringIndex s.cfg s.w.wptr) b
      wptr := modAdd (s.cfg.aw + 1) s.w.wptr 1 } := rfl
@[simp] theorem pushByte_faults (b : Byte) (s : State) :
    (pushByte b s).faults = s.faults := rfl
@[simp] theorem pushByte_views (b : Byte) (s : State) :
    (pushByte b s).views = s.views := rfl
@[simp] theorem pushByte_rx (b : Byte) (s : State) :
    (pushByte b s).rx = s.rx := rfl
@[simp] theorem pushByte_tx (b : Byte) (s : State) :
    (pushByte b s).tx = s.tx := rfl
@[simp] theorem pushByte_locks (b : Byte) (s : State) :
    (pushByte b s).locks = s.locks := rfl
@[simp] theorem pushByte_ghost (b : Byte) (s : State) :
    (pushByte b s).ghost = { s.ghost with
      pushes := s.ghost.pushes + 1
      pushTrace := s.ghost.pushTrace ++ [b] } := rfl
@[simp] theorem pushByte_env (b : Byte) (s : State) :
    (pushByte b s).env = s.env := rfl

/-! `popByte` -/

@[simp] theorem popByte_cfg (s : State) :
    (popByte s).cfg = s.cfg := rfl
@[simp] theorem popByte_w (s : State) :
    (popByte s).w = s.w := rfl
@[simp] theorem popByte_faults (s : State) :
    (popByte s).faults = s.faults := rfl
@[simp] theorem popByte_views (s : State) :
    (popByte s).views = s.views := rfl
@[simp] theorem popByte_rx (s : State) :
    (popByte s).rx = { s.rx with rptr := modAdd (s.cfg.aw + 1) s.rx.rptr 1 } := rfl
@[simp] theorem popByte_tx (s : State) :
    (popByte s).tx = s.tx := rfl
@[simp] theorem popByte_locks (s : State) :
    (popByte s).locks = s.locks := rfl
@[simp] theorem popByte_ghost (s : State) :
    (popByte s).ghost = { s.ghost with
      pops := s.ghost.pops + 1
      popTrace := s.ghost.popTrace ++ [headByte s] } := rfl
@[simp] theorem popByte_env (s : State) :
    (popByte s).env = s.env := rfl

/-! `noteCounted` -/

@[simp] theorem noteCounted_cfg (c : Bool) (s : State) :
    (noteCounted c s).cfg = s.cfg := rfl
@[simp] theorem noteCounted_w (c : Bool) (s : State) :
    (noteCounted c s).w = s.w := rfl
@[simp] theorem noteCounted_faults (c : Bool) (s : State) :
    (noteCounted c s).faults = s.faults := rfl
@[simp] theorem noteCounted_views (c : Bool) (s : State) :
    (noteCounted c s).views = s.views := rfl
@[simp] theorem noteCounted_rx (c : Bool) (s : State) :
    (noteCounted c s).rx = s.rx := rfl
@[simp] theorem noteCounted_tx (c : Bool) (s : State) :
    (noteCounted c s).tx = s.tx := rfl
@[simp] theorem noteCounted_locks (c : Bool) (s : State) :
    (noteCounted c s).locks = s.locks := rfl
@[simp] theorem noteCounted_ghost (c : Bool) (s : State) :
    (noteCounted c s).ghost = { s.ghost with
      cseq := s.ghost.cseq ++ [s.ghost.cseq.getLastD 0 + c.toNat] } := rfl
@[simp] theorem noteCounted_env (c : Bool) (s : State) :
    (noteCounted c s).env = s.env := rfl

/-! `dstWrite` -/

@[simp] theorem dstWrite_cfg (off : Nat) (b : Byte) (s : State) :
    (dstWrite off b s).cfg = s.cfg := rfl
@[simp] theorem dstWrite_w (off : Nat) (b : Byte) (s : State) :
    (dstWrite off b s).w = s.w := rfl
@[simp] theorem dstWrite_faults (off : Nat) (b : Byte) (s : State) :
    (dstWrite off b s).faults = s.faults := rfl
@[simp] theorem dstWrite_views (off : Nat) (b : Byte) (s : State) :
    (dstWrite off b s).views = s.views := rfl
@[simp] theorem dstWrite_rx (off : Nat) (b : Byte) (s : State) :
    (dstWrite off b s).rx = s.rx := rfl
@[simp] theorem dstWrite_tx (off : Nat) (b : Byte) (s : State) :
    (dstWrite off b s).tx = s.tx := rfl
@[simp] theorem dstWrite_locks (off : Nat) (b : Byte) (s : State) :
    (dstWrite off b s).locks = s.locks := rfl
@[simp] theorem dstWrite_ghost (off : Nat) (b : Byte) (s : State) :
    (dstWrite off b s).ghost = { s.ghost with dstTrace := s.ghost.dstTrace ++ [(off, b)] } := rfl
@[simp] theorem dstWrite_env (off : Nat) (b : Byte) (s : State) :
    (dstWrite off b s).env = s.env := rfl

/-! `sinkWrite` -/

@[simp] theorem sinkWrite_cfg (b : Byte) (s : State) :
    (sinkWrite b s).cfg = s.cfg := rfl
@[simp] theorem sinkWrite_w (b : Byte) (s : State) :
    (sinkWrite b s).w = s.w := rfl
@[simp] theorem sinkWrite_faults (b : Byte) (s : State) :
    (sinkWrite b s).faults = s.faults := rfl
@[simp] theorem sinkWrite_views (b : Byte) (s : State) :
    (sinkWrite b s).views = s.views := rfl
@[simp] theorem sinkWrite_rx (b : Byte) (s : State) :
    (sinkWrite b s).rx = s.rx := rfl
@[simp] theorem sinkWrite_tx (b : Byte) (s : State) :
    (sinkWrite b s).tx = s.tx := rfl
@[simp] theorem sinkWrite_locks (b : Byte) (s : State) :
    (sinkWrite b s).locks = s.locks := rfl
@[simp] theorem sinkWrite_ghost (b : Byte) (s : State) :
    (sinkWrite b s).ghost = { s.ghost with sinkTrace := s.ghost.sinkTrace ++ [b] } := rfl
@[simp] theorem sinkWrite_env (b : Byte) (s : State) :
    (sinkWrite b s).env = s.env := rfl

/-! `pulseGrant` -/

@[simp] theorem pulseGrant_cfg (d : Dir) (q : Nat) (s : State) :
    (pulseGrant d q s).cfg = s.cfg := rfl
@[simp] theorem pulseGrant_w (d : Dir) (q : Nat) (s : State) :
    (pulseGrant d q s).w = s.w := rfl
@[simp] theorem pulseGrant_faults (d : Dir) (q : Nat) (s : State) :
    (pulseGrant d q s).faults = s.faults := rfl
@[simp] theorem pulseGrant_views (d : Dir) (q : Nat) (s : State) :
    (pulseGrant d q s).views = s.views := rfl
@[simp] theorem pulseGrant_rx (d : Dir) (q : Nat) (s : State) :
    (pulseGrant d q s).rx = s.rx := rfl
@[simp] theorem pulseGrant_tx (d : Dir) (q : Nat) (s : State) :
    (pulseGrant d q s).tx = s.tx := rfl
@[simp] theorem pulseGrant_locks (d : Dir) (q : Nat) (s : State) :
    (pulseGrant d q s).locks = s.locks := rfl
@[simp] theorem pulseGrant_ghost (d : Dir) (q : Nat) (s : State) :
    (pulseGrant d q s).ghost = { s.ghost with grants := s.ghost.grants ++ [(d, q)] } := rfl
@[simp] theorem pulseGrant_env (d : Dir) (q : Nat) (s : State) :
    (pulseGrant d q s).env = s.env := rfl

/-! `markRefused` -/

@[simp] theorem markRefused_cfg (d : Dir) (q : Nat) (s : State) :
    (markRefused d q s).cfg = s.cfg := rfl
@[simp] theorem markRefused_w (d : Dir) (q : Nat) (s : State) :
    (markRefused d q s).w = s.w := rfl
@[simp] theorem markRefused_faults (d : Dir) (q : Nat) (s : State) :
    (markRefused d q s).faults = s.faults := rfl
@[simp] theorem markRefused_views (d : Dir) (q : Nat) (s : State) :
    (markRefused d q s).views = s.views := rfl
@[simp] theorem markRefused_rx (d : Dir) (q : Nat) (s : State) :
    (markRefused d q s).rx = s.rx := rfl
@[simp] theorem markRefused_tx (d : Dir) (q : Nat) (s : State) :
    (markRefused d q s).tx = s.tx := rfl
@[simp] theorem markRefused_locks (d : Dir) (q : Nat) (s : State) :
    (markRefused d q s).locks = s.locks := rfl
@[simp] theorem markRefused_ghost (d : Dir) (q : Nat) (s : State) :
    (markRefused d q s).ghost = { s.ghost with refusedPosts := s.ghost.refusedPosts ++ [(d, q)] } := rfl
@[simp] theorem markRefused_env (d : Dir) (q : Nat) (s : State) :
    (markRefused d q s).env = s.env := rfl

/-! `setTxPort` -/

@[simp] theorem setTxPort_cfg (q : Nat) (t : Byte) (len : Nat) (p : List Byte) (s : State) :
    (setTxPort q t len p s).cfg = s.cfg := rfl
@[simp] theorem setTxPort_w (q : Nat) (t : Byte) (len : Nat) (p : List Byte) (s : State) :
    (setTxPort q t len p s).w = s.w := rfl
@[simp] theorem setTxPort_faults (q : Nat) (t : Byte) (len : Nat) (p : List Byte) (s : State) :
    (setTxPort q t len p s).faults = s.faults := rfl
@[simp] theorem setTxPort_views (q : Nat) (t : Byte) (len : Nat) (p : List Byte) (s : State) :
    (setTxPort q t len p s).views = s.views := rfl
@[simp] theorem setTxPort_rx (q : Nat) (t : Byte) (len : Nat) (p : List Byte) (s : State) :
    (setTxPort q t len p s).rx = s.rx := rfl
@[simp] theorem setTxPort_tx (q : Nat) (t : Byte) (len : Nat) (p : List Byte) (s : State) :
    (setTxPort q t len p s).tx = s.tx := rfl
@[simp] theorem setTxPort_locks (q : Nat) (t : Byte) (len : Nat) (p : List Byte) (s : State) :
    (setTxPort q t len p s).locks = s.locks := rfl
@[simp] theorem setTxPort_ghost (q : Nat) (t : Byte) (len : Nat) (p : List Byte) (s : State) :
    (setTxPort q t len p s).ghost = s.ghost := rfl
@[simp] theorem setTxPort_env (q : Nat) (t : Byte) (len : Nat) (p : List Byte) (s : State) :
    (setTxPort q t len p s).env = { s.env with
      txCmd := s.env.txCmd.set q { type := t, len := len, payload := p } } := rfl

/-! `setRxPort` -/

@[simp] theorem setRxPort_cfg (q cap : Nat) (st : DecodeState) (s : State) :
    (setRxPort q cap st s).cfg = s.cfg := rfl
@[simp] theorem setRxPort_w (q cap : Nat) (st : DecodeState) (s : State) :
    (setRxPort q cap st s).w = s.w := rfl
@[simp] theorem setRxPort_faults (q cap : Nat) (st : DecodeState) (s : State) :
    (setRxPort q cap st s).faults = s.faults := rfl
@[simp] theorem setRxPort_views (q cap : Nat) (st : DecodeState) (s : State) :
    (setRxPort q cap st s).views = s.views := rfl
@[simp] theorem setRxPort_rx (q cap : Nat) (st : DecodeState) (s : State) :
    (setRxPort q cap st s).rx = s.rx := rfl
@[simp] theorem setRxPort_tx (q cap : Nat) (st : DecodeState) (s : State) :
    (setRxPort q cap st s).tx = s.tx := rfl
@[simp] theorem setRxPort_locks (q cap : Nat) (st : DecodeState) (s : State) :
    (setRxPort q cap st s).locks = s.locks := rfl
@[simp] theorem setRxPort_ghost (q cap : Nat) (st : DecodeState) (s : State) :
    (setRxPort q cap st s).ghost = s.ghost := rfl
@[simp] theorem setRxPort_env (q cap : Nat) (st : DecodeState) (s : State) :
    (setRxPort q cap st s).env = { s.env with rxCmd := s.env.rxCmd.set q { cap := cap, stIn := st } } := rfl

/-! `setPayload` -/

@[simp] theorem setPayload_cfg (q : Nat) (bs : List Byte) (s : State) :
    (setPayload q bs s).cfg = s.cfg := rfl
@[simp] theorem setPayload_w (q : Nat) (bs : List Byte) (s : State) :
    (setPayload q bs s).w = s.w := rfl
@[simp] theorem setPayload_faults (q : Nat) (bs : List Byte) (s : State) :
    (setPayload q bs s).faults = s.faults := rfl
@[simp] theorem setPayload_views (q : Nat) (bs : List Byte) (s : State) :
    (setPayload q bs s).views = s.views := rfl
@[simp] theorem setPayload_rx (q : Nat) (bs : List Byte) (s : State) :
    (setPayload q bs s).rx = s.rx := rfl
@[simp] theorem setPayload_tx (q : Nat) (bs : List Byte) (s : State) :
    (setPayload q bs s).tx = s.tx := rfl
@[simp] theorem setPayload_locks (q : Nat) (bs : List Byte) (s : State) :
    (setPayload q bs s).locks = s.locks := rfl
@[simp] theorem setPayload_ghost (q : Nat) (bs : List Byte) (s : State) :
    (setPayload q bs s).ghost = s.ghost := rfl
@[simp] theorem setPayload_env (q : Nat) (bs : List Byte) (s : State) :
    (setPayload q bs s).env = { s.env with
      txCmd := s.env.txCmd.modify q fun p => { p with payload := bs } } := rfl

/-! `withStrobes` -/

@[simp] theorem withStrobes_cfg (ps : List Strobe) (s : State) :
    (withStrobes ps s).cfg = s.cfg := rfl
@[simp] theorem withStrobes_w (ps : List Strobe) (s : State) :
    (withStrobes ps s).w = s.w := rfl
@[simp] theorem withStrobes_faults (ps : List Strobe) (s : State) :
    (withStrobes ps s).faults = s.faults := rfl
@[simp] theorem withStrobes_views (ps : List Strobe) (s : State) :
    (withStrobes ps s).views = s.views := rfl
@[simp] theorem withStrobes_rx (ps : List Strobe) (s : State) :
    (withStrobes ps s).rx = s.rx := rfl
@[simp] theorem withStrobes_tx (ps : List Strobe) (s : State) :
    (withStrobes ps s).tx = s.tx := rfl
@[simp] theorem withStrobes_locks (ps : List Strobe) (s : State) :
    (withStrobes ps s).locks = s.locks := rfl
@[simp] theorem withStrobes_ghost (ps : List Strobe) (s : State) :
    (withStrobes ps s).ghost = s.ghost := rfl
@[simp] theorem withStrobes_env (ps : List Strobe) (s : State) :
    (withStrobes ps s).env = { s.env with strobes := ps } := rfl

/-! `resetBlock` -/

@[simp] theorem resetBlock_cfg (s : State) :
    (resetBlock s).cfg = s.cfg := rfl
@[simp] theorem resetBlock_w (s : State) :
    (resetBlock s).w = IngestRegs.reset := rfl
@[simp] theorem resetBlock_faults (s : State) :
    (resetBlock s).faults = FaultRegs.reset := rfl
@[simp] theorem resetBlock_views (s : State) :
    (resetBlock s).views = Views.reset := rfl
@[simp] theorem resetBlock_rx (s : State) :
    (resetBlock s).rx = RxRegs.reset := rfl
@[simp] theorem resetBlock_tx (s : State) :
    (resetBlock s).tx = TxRegs.reset := rfl
@[simp] theorem resetBlock_locks (s : State) :
    (resetBlock s).locks = LockRegs.reset s.cfg := rfl
@[simp] theorem resetBlock_ghost (s : State) :
    (resetBlock s).ghost = Ghost.reset := rfl
@[simp] theorem resetBlock_env (s : State) :
    (resetBlock s).env = { s.env with epoch := s.env.epoch + 1 } := rfl

/-! `startTx` -/

@[simp] theorem startTx_cfg (m : Mode) (q : Nat) (t : Byte) (len : Nat) (s : State) :
    (startTx m q t len s).cfg = s.cfg := rfl
@[simp] theorem startTx_w (m : Mode) (q : Nat) (t : Byte) (len : Nat) (s : State) :
    (startTx m q t len s).w = s.w := rfl
@[simp] theorem startTx_faults (m : Mode) (q : Nat) (t : Byte) (len : Nat) (s : State) :
    (startTx m q t len s).faults = s.faults := rfl
@[simp] theorem startTx_views (m : Mode) (q : Nat) (t : Byte) (len : Nat) (s : State) :
    (startTx m q t len s).views = s.views := rfl
@[simp] theorem startTx_rx (m : Mode) (q : Nat) (t : Byte) (len : Nat) (s : State) :
    (startTx m q t len s).rx = s.rx := rfl
@[simp] theorem startTx_locks (m : Mode) (q : Nat) (t : Byte) (len : Nat) (s : State) :
    (startTx m q t len s).locks = s.locks := rfl
@[simp] theorem startTx_ghost (m : Mode) (q : Nat) (t : Byte) (len : Nat) (s : State) :
    (startTx m q t len s).ghost = { s.ghost with grants := s.ghost.grants ++ [(.tx, q)] } := rfl
@[simp] theorem startTx_env (m : Mode) (q : Nat) (t : Byte) (len : Nat) (s : State) :
    (startTx m q t len s).env = s.env := rfl

/-! `startRegs` -/

@[simp] theorem startRegs_cfg (m : Mode) (q cap : Nat) (st : DecodeState) (s : State) :
    (startRegs m q cap st s).cfg = s.cfg := rfl
@[simp] theorem startRegs_w (m : Mode) (q cap : Nat) (st : DecodeState) (s : State) :
    (startRegs m q cap st s).w = s.w := rfl
@[simp] theorem startRegs_faults (m : Mode) (q cap : Nat) (st : DecodeState) (s : State) :
    (startRegs m q cap st s).faults = s.faults := rfl
@[simp] theorem startRegs_views (m : Mode) (q cap : Nat) (st : DecodeState) (s : State) :
    (startRegs m q cap st s).views = s.views := rfl
@[simp] theorem startRegs_tx (m : Mode) (q cap : Nat) (st : DecodeState) (s : State) :
    (startRegs m q cap st s).tx = s.tx := rfl
@[simp] theorem startRegs_locks (m : Mode) (q cap : Nat) (st : DecodeState) (s : State) :
    (startRegs m q cap st s).locks = s.locks := rfl
@[simp] theorem startRegs_ghost (m : Mode) (q cap : Nat) (st : DecodeState) (s : State) :
    (startRegs m q cap st s).ghost = { s.ghost with dstTrace := [] } := rfl
@[simp] theorem startRegs_env (m : Mode) (q cap : Nat) (st : DecodeState) (s : State) :
    (startRegs m q cap st s).env = s.env := rfl

/-! `raiseFatal` -/

@[simp] theorem raiseFatal_cfg (c : FatalCause) (s : State) :
    (raiseFatal c s).cfg = s.cfg := by
  unfold raiseFatal; split
  · rfl
  · split <;> rfl
@[simp] theorem raiseFatal_w (c : FatalCause) (s : State) :
    (raiseFatal c s).w = s.w := by
  unfold raiseFatal; split
  · rfl
  · split <;> rfl
@[simp] theorem raiseFatal_views (c : FatalCause) (s : State) :
    (raiseFatal c s).views = s.views := by
  unfold raiseFatal; split
  · rfl
  · split <;> rfl
@[simp] theorem raiseFatal_rx (c : FatalCause) (s : State) :
    (raiseFatal c s).rx = s.rx := by
  unfold raiseFatal; split
  · rfl
  · split <;> rfl
@[simp] theorem raiseFatal_tx (c : FatalCause) (s : State) :
    (raiseFatal c s).tx = s.tx := by
  unfold raiseFatal; split
  · rfl
  · split <;> rfl
@[simp] theorem raiseFatal_locks (c : FatalCause) (s : State) :
    (raiseFatal c s).locks = s.locks := by
  unfold raiseFatal; split
  · rfl
  · split <;> rfl
@[simp] theorem raiseFatal_ghost (c : FatalCause) (s : State) :
    (raiseFatal c s).ghost = s.ghost := by
  unfold raiseFatal; split
  · rfl
  · split <;> rfl
@[simp] theorem raiseFatal_env (c : FatalCause) (s : State) :
    (raiseFatal c s).env = s.env := by
  unfold raiseFatal; split
  · rfl
  · split <;> rfl

/-! `result` -/

@[simp] theorem result_cfg (n : Nat) (c e : Bool) (s : State) :
    (result n c e s).cfg = s.cfg := by
  unfold result; split <;> rfl
@[simp] theorem result_w (n : Nat) (c e : Bool) (s : State) :
    (result n c e s).w = s.w := by
  unfold result; split <;> rfl
@[simp] theorem result_faults (n : Nat) (c e : Bool) (s : State) :
    (result n c e s).faults = s.faults := by
  unfold result; split <;> rfl
@[simp] theorem result_views (n : Nat) (c e : Bool) (s : State) :
    (result n c e s).views = s.views := by
  unfold result; split <;> rfl
@[simp] theorem result_tx (n : Nat) (c e : Bool) (s : State) :
    (result n c e s).tx = s.tx := by
  unfold result; split <;> rfl
@[simp] theorem result_ghost (n : Nat) (c e : Bool) (s : State) :
    (result n c e s).ghost = s.ghost := by
  unfold result; split <;> rfl
@[simp] theorem result_env (n : Nat) (c e : Bool) (s : State) :
    (result n c e s).env = s.env := by
  unfold result; split <;> rfl

/-! `noise` -/

@[simp] theorem noise_cfg (s : State) :
    (noise s).cfg = s.cfg := by
  unfold noise; split <;> rfl
@[simp] theorem noise_w (s : State) :
    (noise s).w = s.w := by
  unfold noise; split <;> rfl
@[simp] theorem noise_faults (s : State) :
    (noise s).faults = s.faults := by
  unfold noise; split <;> rfl
@[simp] theorem noise_views (s : State) :
    (noise s).views = s.views := by
  unfold noise; split <;> rfl
@[simp] theorem noise_tx (s : State) :
    (noise s).tx = s.tx := by
  unfold noise; split <;> rfl
@[simp] theorem noise_locks (s : State) :
    (noise s).locks = s.locks := by
  unfold noise; split <;> rfl
@[simp] theorem noise_ghost (s : State) :
    (noise s).ghost = s.ghost := by
  unfold noise; split <;> rfl
@[simp] theorem noise_env (s : State) :
    (noise s).env = s.env := by
  unfold noise; split <;> rfl

/-! `store` -/

@[simp] theorem store_cfg (d : Byte) (s : State) :
    (store d s).cfg = s.cfg := by
  unfold store; split <;> rfl
@[simp] theorem store_w (d : Byte) (s : State) :
    (store d s).w = s.w := by
  unfold store; split <;> rfl
@[simp] theorem store_faults (d : Byte) (s : State) :
    (store d s).faults = s.faults := by
  unfold store; split <;> rfl
@[simp] theorem store_views (d : Byte) (s : State) :
    (store d s).views = s.views := by
  unfold store; split <;> rfl
@[simp] theorem store_tx (d : Byte) (s : State) :
    (store d s).tx = s.tx := by
  unfold store; split <;> rfl
@[simp] theorem store_locks (d : Byte) (s : State) :
    (store d s).locks = s.locks := by
  unfold store; split <;> rfl
@[simp] theorem store_env (d : Byte) (s : State) :
    (store d s).env = s.env := by
  unfold store; split <;> rfl

/-! `deliver` -/

@[simp] theorem deliver_cfg (d : Byte) (s : State) :
    (deliver d s).cfg = s.cfg := by
  unfold deliver store; repeat' split
  all_goals rfl
@[simp] theorem deliver_w (d : Byte) (s : State) :
    (deliver d s).w = s.w := by
  unfold deliver store; repeat' split
  all_goals rfl
@[simp] theorem deliver_faults (d : Byte) (s : State) :
    (deliver d s).faults = s.faults := by
  unfold deliver store; repeat' split
  all_goals rfl
@[simp] theorem deliver_views (d : Byte) (s : State) :
    (deliver d s).views = s.views := by
  unfold deliver store; repeat' split
  all_goals rfl
@[simp] theorem deliver_tx (d : Byte) (s : State) :
    (deliver d s).tx = s.tx := by
  unfold deliver store; repeat' split
  all_goals rfl
@[simp] theorem deliver_locks (d : Byte) (s : State) :
    (deliver d s).locks = s.locks := by
  unfold deliver store; repeat' split
  all_goals rfl
@[simp] theorem deliver_env (d : Byte) (s : State) :
    (deliver d s).env = s.env := by
  unfold deliver store; repeat' split
  all_goals rfl

/-! `complete` -/

@[simp] theorem complete_cfg (s : State) :
    (complete s).cfg = s.cfg := by
  unfold complete result; split <;> rfl
@[simp] theorem complete_w (s : State) :
    (complete s).w = s.w := by
  unfold complete result; split <;> rfl
@[simp] theorem complete_faults (s : State) :
    (complete s).faults = s.faults := by
  unfold complete result; split <;> rfl
@[simp] theorem complete_views (s : State) :
    (complete s).views = s.views := by
  unfold complete result; split <;> rfl
@[simp] theorem complete_tx (s : State) :
    (complete s).tx = s.tx := by
  unfold complete result; split <;> rfl
@[simp] theorem complete_ghost (s : State) :
    (complete s).ghost = s.ghost := by
  unfold complete result; split <;> rfl
@[simp] theorem complete_env (s : State) :
    (complete s).env = s.env := by
  unfold complete result; split <;> rfl

/-! `escByte` -/

@[simp] theorem escByte_cfg (f : Byte) (s : State) :
    (escByte f s).cfg = s.cfg := by
  simp [escByte]
@[simp] theorem escByte_w (f : Byte) (s : State) :
    (escByte f s).w = s.w := by
  simp [escByte]
@[simp] theorem escByte_faults (f : Byte) (s : State) :
    (escByte f s).faults = s.faults := by
  simp [escByte]
@[simp] theorem escByte_views (f : Byte) (s : State) :
    (escByte f s).views = s.views := by
  simp [escByte]
@[simp] theorem escByte_tx (f : Byte) (s : State) :
    (escByte f s).tx = s.tx := by
  simp [escByte]
@[simp] theorem escByte_locks (f : Byte) (s : State) :
    (escByte f s).locks = s.locks := by
  simp [escByte]
@[simp] theorem escByte_env (f : Byte) (s : State) :
    (escByte f s).env = s.env := by
  simp [escByte]

/-! `drainByte` -/

@[simp] theorem drainByte_cfg (b : Byte) (s : State) :
    (drainByte b s).cfg = s.cfg := by
  unfold drainByte; repeat' split
  all_goals simp
@[simp] theorem drainByte_w (b : Byte) (s : State) :
    (drainByte b s).w = s.w := by
  unfold drainByte; repeat' split
  all_goals simp
@[simp] theorem drainByte_faults (b : Byte) (s : State) :
    (drainByte b s).faults = s.faults := by
  unfold drainByte; repeat' split
  all_goals simp
@[simp] theorem drainByte_views (b : Byte) (s : State) :
    (drainByte b s).views = s.views := by
  unfold drainByte; repeat' split
  all_goals simp
@[simp] theorem drainByte_tx (b : Byte) (s : State) :
    (drainByte b s).tx = s.tx := by
  unfold drainByte; repeat' split
  all_goals simp
@[simp] theorem drainByte_env (b : Byte) (s : State) :
    (drainByte b s).env = s.env := by
  unfold drainByte; repeat' split
  all_goals simp

/-! `leadStep` -/

@[simp] theorem leadStep_cfg (s : State) :
    (leadStep s).cfg = s.cfg := rfl
@[simp] theorem leadStep_w (s : State) :
    (leadStep s).w = s.w := rfl
@[simp] theorem leadStep_faults (s : State) :
    (leadStep s).faults = s.faults := rfl
@[simp] theorem leadStep_views (s : State) :
    (leadStep s).views = s.views := rfl
@[simp] theorem leadStep_rx (s : State) :
    (leadStep s).rx = s.rx := rfl
@[simp] theorem leadStep_locks (s : State) :
    (leadStep s).locks = s.locks := rfl
@[simp] theorem leadStep_env (s : State) :
    (leadStep s).env = s.env := rfl

/-! `typeStep` -/

@[simp] theorem typeStep_cfg (s : State) :
    (typeStep s).cfg = s.cfg := rfl
@[simp] theorem typeStep_w (s : State) :
    (typeStep s).w = s.w := rfl
@[simp] theorem typeStep_faults (s : State) :
    (typeStep s).faults = s.faults := rfl
@[simp] theorem typeStep_views (s : State) :
    (typeStep s).views = s.views := rfl
@[simp] theorem typeStep_rx (s : State) :
    (typeStep s).rx = s.rx := rfl
@[simp] theorem typeStep_locks (s : State) :
    (typeStep s).locks = s.locks := rfl
@[simp] theorem typeStep_env (s : State) :
    (typeStep s).env = s.env := rfl

/-! `payStep` -/

@[simp] theorem payStep_cfg (s : State) :
    (payStep s).cfg = s.cfg := rfl
@[simp] theorem payStep_w (s : State) :
    (payStep s).w = s.w := rfl
@[simp] theorem payStep_faults (s : State) :
    (payStep s).faults = s.faults := rfl
@[simp] theorem payStep_views (s : State) :
    (payStep s).views = s.views := rfl
@[simp] theorem payStep_rx (s : State) :
    (payStep s).rx = s.rx := rfl
@[simp] theorem payStep_locks (s : State) :
    (payStep s).locks = s.locks := rfl
@[simp] theorem payStep_env (s : State) :
    (payStep s).env = s.env := rfl

/-! `pay2Step` -/

@[simp] theorem pay2Step_cfg (s : State) :
    (pay2Step s).cfg = s.cfg := rfl
@[simp] theorem pay2Step_w (s : State) :
    (pay2Step s).w = s.w := rfl
@[simp] theorem pay2Step_faults (s : State) :
    (pay2Step s).faults = s.faults := rfl
@[simp] theorem pay2Step_views (s : State) :
    (pay2Step s).views = s.views := rfl
@[simp] theorem pay2Step_rx (s : State) :
    (pay2Step s).rx = s.rx := rfl
@[simp] theorem pay2Step_locks (s : State) :
    (pay2Step s).locks = s.locks := rfl
@[simp] theorem pay2Step_env (s : State) :
    (pay2Step s).env = s.env := rfl

/-! `cloStep` -/

@[simp] theorem cloStep_cfg (s : State) :
    (cloStep s).cfg = s.cfg := rfl
@[simp] theorem cloStep_w (s : State) :
    (cloStep s).w = s.w := rfl
@[simp] theorem cloStep_faults (s : State) :
    (cloStep s).faults = s.faults := rfl
@[simp] theorem cloStep_views (s : State) :
    (cloStep s).views = s.views := rfl
@[simp] theorem cloStep_rx (s : State) :
    (cloStep s).rx = s.rx := rfl
@[simp] theorem cloStep_locks (s : State) :
    (cloStep s).locks = s.locks := rfl
@[simp] theorem cloStep_env (s : State) :
    (cloStep s).env = s.env := rfl

/-! `clo2Step` -/

@[simp] theorem clo2Step_cfg (s : State) :
    (clo2Step s).cfg = s.cfg := rfl
@[simp] theorem clo2Step_w (s : State) :
    (clo2Step s).w = s.w := rfl
@[simp] theorem clo2Step_faults (s : State) :
    (clo2Step s).faults = s.faults := rfl
@[simp] theorem clo2Step_views (s : State) :
    (clo2Step s).views = s.views := rfl
@[simp] theorem clo2Step_rx (s : State) :
    (clo2Step s).rx = s.rx := rfl
@[simp] theorem clo2Step_locks (s : State) :
    (clo2Step s).locks = s.locks := rfl
@[simp] theorem clo2Step_env (s : State) :
    (clo2Step s).env = s.env := rfl

/-! `chiStep` -/

@[simp] theorem chiStep_cfg (s : State) :
    (chiStep s).cfg = s.cfg := rfl
@[simp] theorem chiStep_w (s : State) :
    (chiStep s).w = s.w := rfl
@[simp] theorem chiStep_faults (s : State) :
    (chiStep s).faults = s.faults := rfl
@[simp] theorem chiStep_views (s : State) :
    (chiStep s).views = s.views := rfl
@[simp] theorem chiStep_rx (s : State) :
    (chiStep s).rx = s.rx := rfl
@[simp] theorem chiStep_locks (s : State) :
    (chiStep s).locks = s.locks := rfl
@[simp] theorem chiStep_env (s : State) :
    (chiStep s).env = s.env := rfl

/-! `chi2Step` -/

@[simp] theorem chi2Step_cfg (s : State) :
    (chi2Step s).cfg = s.cfg := rfl
@[simp] theorem chi2Step_w (s : State) :
    (chi2Step s).w = s.w := rfl
@[simp] theorem chi2Step_faults (s : State) :
    (chi2Step s).faults = s.faults := rfl
@[simp] theorem chi2Step_views (s : State) :
    (chi2Step s).views = s.views := rfl
@[simp] theorem chi2Step_rx (s : State) :
    (chi2Step s).rx = s.rx := rfl
@[simp] theorem chi2Step_locks (s : State) :
    (chi2Step s).locks = s.locks := rfl
@[simp] theorem chi2Step_env (s : State) :
    (chi2Step s).env = s.env := rfl

/-! `trailStep` -/

@[simp] theorem trailStep_cfg (s : State) :
    (trailStep s).cfg = s.cfg := rfl
@[simp] theorem trailStep_w (s : State) :
    (trailStep s).w = s.w := rfl
@[simp] theorem trailStep_faults (s : State) :
    (trailStep s).faults = s.faults := rfl
@[simp] theorem trailStep_views (s : State) :
    (trailStep s).views = s.views := rfl
@[simp] theorem trailStep_rx (s : State) :
    (trailStep s).rx = s.rx := rfl
@[simp] theorem trailStep_env (s : State) :
    (trailStep s).env = s.env := rfl

end Sys2Proof.Machine
end

