-- ==== Sys2Proof/Laws/Ops.lean ====
section
/-! SUPPORT. For each shared operation, one lemma that says once everything it can do. -/

namespace Sys2Proof.Machine

/-! ### Arithmetic -/

theorem modAdd_lt (w a b : Nat) : modAdd w a b < 2 ^ w := Nat.mod_lt _ (by positivity)

theorem modSub_lt (w a b : Nat) : modSub w a b < 2 ^ w := Nat.mod_lt _ (by positivity)

/-- A difference of two counters, each taken modulo `2^w`, is the counters' own difference when that
fits (R40). -/
theorem modSub_mod (w a b : Nat) (hle : b ≤ a) (hlt : a - b < 2 ^ w) :
    modSub w (a % 2 ^ w) (b % 2 ^ w) = a - b := by
  obtain ⟨d, rfl⟩ := Nat.exists_eq_add_of_le hle
  have hd : d < 2 ^ w := by omega
  unfold modSub
  generalize 2 ^ w = m at *
  have hm : 0 < m := by omega
  have hb : b % m < m := Nat.mod_lt _ hm
  rw [Nat.mod_mod]
  have h1 : (b + d) % m = (b % m + d) % m := by simp [Nat.add_mod]
  rw [h1]
  by_cases h : b % m + d < m
  · rw [Nat.mod_eq_of_lt h]
    have h2 : b % m + d + (m - b % m) = d + m := by omega
    rw [h2, Nat.add_mod_right, Nat.mod_eq_of_lt hd]; omega
  · have h2 : (b % m + d) % m = b % m + d - m := by
      rw [Nat.mod_eq_sub_mod (by omega), Nat.mod_eq_of_lt (by omega)]
    rw [h2]
    have h3 : b % m + d - m + (m - b % m) = d := by omega
    rw [h3, Nat.mod_eq_of_lt hd]; omega

/-- Adding one to a counter kept modulo `2^w` (R40). -/
theorem modAdd_mod_one (w n : Nat) : modAdd w (n % 2 ^ w) 1 = (n + 1) % 2 ^ w := by
  simp [modAdd, Nat.add_mod]

/-! ### Requesters and the exception -/

/-- An operation on a slot answers a next state only where the slot exists. -/
theorem withSlot_eq_next {q : Nat} {s t : State} {k : Host.Outcome State Fault Refusal} :
    withSlot q s k = .next t ↔ q < s.cfg.nreq ∧ k = .next t := by
  unfold withSlot; split <;> simp_all

/-- Everything `raise Fatal` can do (R236): the write-domain cause sets `wfault`; a host-domain cause is
recorded if it is the first. -/
theorem raiseFatal_cases (c : FatalCause) (s : State) :
    (c = .queueFullOnIngest ∧
      raiseFatal c s = { s with faults := { s.faults with wfault := true } }) ∨
    (c ≠ .queueFullOnIngest ∧ s.faults.hfault = .none ∧
      raiseFatal c s = { s with faults := { s.faults with hfault := c.hostFault } }) ∨
    (c ≠ .queueFullOnIngest ∧ s.faults.hfault ≠ .none ∧ raiseFatal c s = s) := by
  unfold raiseFatal
  split
  · simp
  · split <;> simp_all

/-- What `raise Fatal` leaves in the fault registers. -/
theorem raiseFatal_faults (c : FatalCause) (s : State) :
    (raiseFatal c s).faults =
      { wfault := if c = .queueFullOnIngest then true else s.faults.wfault
        hfault :=
          if c ≠ .queueFullOnIngest ∧ s.faults.hfault = .none then c.hostFault
          else s.faults.hfault } := by
  rcases raiseFatal_cases c s with ⟨h, e⟩ | ⟨h, h', e⟩ | ⟨h, h', e⟩ <;> simp [h, e] <;> simp_all

/-! ### Ingestion -/

/-- Everything `INGEST` can do (R120, R121, R129). -/
theorem ingestByte_cases (b : Byte) (s : State) :
    (writeHalted s = true ∧ ingestByte b s = s) ∨
    (writeHalted s = false ∧ fullW s = true ∧
      ingestByte b s = raiseFatal .queueFullOnIngest s) ∨
    (writeHalted s = false ∧ fullW s = false ∧
      ingestByte b s =
        { noteCounted (countedByte b s) (pushByte b s) with
          w := { (pushByte b s).w with
            closed :=
              if countedByte b s then modAdd s.cfg.cw s.w.closed 1 else s.w.closed
            lastByte := b } }) := by
  unfold ingestByte
  split
  · simp_all
  · split <;> simp_all

/-! ### The decode engine -/

/-- Everything `Result` can do (R169, R202). -/
theorem result_cases (n : Nat) (c e : Bool) (s : State) :
    (s.rx.mode = .slip ∧ result n c e s =
      { s with rx := { s.rx with
          resLen := n, resComplete := c, resTypeValid := false, resType := 0#8,
          resPending := false, done := true, state := .idle } }) ∨
    (s.rx.mode = .slipmux ∧ result n c e s =
      { s with
        rx := { s.rx with
          resLen := n, resComplete := c, resTypeValid := s.rx.typeValid,
          resType := s.rx.typeReg,
          resPending := if e then s.rx.pendIn else s.rx.typeValid && !c,
          done := true, state := .idle }
        locks := { s.locks with rxLock := false } }) := by
  unfold result; split <;> simp_all

/-- Everything `Noise` can do (R164, R199). -/
theorem noise_cases (s : State) :
    (s.rx.mode = .slip ∧ noise s = s) ∨
    (s.rx.mode = .slipmux ∧
      noise s = { s with rx := { s.rx with first := true, typeValid := false } }) := by
  unfold noise; split <;> simp_all

/-- Everything `Store` can do (R168). -/
theorem store_cases (d : Byte) (s : State) :
    (s.rx.rcv < s.rx.cap ∧ store d s =
      { s with
        rx := { s.rx with rcv := modAdd s.cfg.lw s.rx.rcv 1 }
        ghost := { s.ghost with dstTrace := s.ghost.dstTrace ++ [(s.rx.rcv, d)] } }) ∨
    (s.rx.cap ≤ s.rx.rcv ∧ store d s = s) := by
  unfold store
  split
  · left; exact ⟨by assumption, rfl⟩
  · right; exact ⟨by omega, rfl⟩

/-- Everything `Deliver` can do (R167, R200). -/
theorem deliver_cases (d : Byte) (s : State) :
    (s.rx.mode = .slipmux ∧ s.rx.first = true ∧ deliver d s =
      { s with rx := { s.rx with typeReg := d, typeValid := true, first := false } }) ∨
    ((s.rx.mode = .slip ∨ s.rx.first = false) ∧ deliver d s = store d s) := by
  unfold deliver; split
  · simp_all
  · split <;> simp_all

/-- Everything `R_DRAIN` can do (R162). -/
theorem drainStep_cases (s : State) :
    (emptyR s = true ∧ countR s = 0 ∧ drainStep s = result s.rx.rcv false false s) ∨
    (emptyR s = true ∧ countR s ≠ 0 ∧ drainStep s = raiseFatal .countNotZeroOnEmpty s) ∨
    (emptyR s = false ∧ headByte s = terminator ∧ 0 < s.rx.rcv ∧
      drainStep s = complete (popByte s)) ∨
    (emptyR s = false ∧ headByte s = terminator ∧ s.rx.rcv = 0 ∧
      drainStep s = noise (popByte s)) ∨
    (emptyR s = false ∧ headByte s = escape ∧
      drainStep s = { popByte s with rx := { (popByte s).rx with state := .esc } }) ∨
    (emptyR s = false ∧ headByte s ≠ terminator ∧ headByte s ≠ escape ∧
      drainStep s = deliver (headByte s) (popByte s)) := by
  unfold drainStep drainByte
  split
  · split
    · exact .inl ⟨by assumption, by assumption, rfl⟩
    · exact .inr (.inl ⟨by assumption, by assumption, rfl⟩)
  · rename_i he
    have he : emptyR s = false := by simpa using he
    split
    · split
      · rename_i h1 h2
        exact .inr (.inr (.inl ⟨he, h1, by simpa using h2, rfl⟩))
      · rename_i h1 h2
        exact .inr (.inr (.inr (.inl ⟨he, h1, by simpa using h2, rfl⟩)))
    · split
      · exact .inr (.inr (.inr (.inr (.inl ⟨he, by assumption, rfl⟩))))
      · exact .inr (.inr (.inr (.inr (.inr ⟨he, by assumption, by assumption, rfl⟩))))

/-- Everything `R_ESC` can do (R166). -/
theorem escStep_cases (s : State) :
    (emptyR s = true ∧ escStep s = result s.rx.rcv false false s) ∨
    (emptyR s = false ∧ escStep s = escByte (headByte s) (popByte s)) := by
  unfold escStep; split <;> simp_all

/-! ### The encode engine -/

@[simp] theorem escape_ne_terminator : (escape : Byte) ≠ terminator := by decide

/-- Everything the first half of an escape sequence does to the engine (R153, R184, R186). -/
theorem stuffRegs_cases (p : Byte) (second : TxState) (done : TxRegs → TxRegs) (r : TxRegs) :
    (p = terminator ∧
      stuffRegs p second done r = { r with hold := escapedTerminator, state := second }) ∨
    (p = escape ∧
      stuffRegs p second done r = { r with hold := escapedEscape, state := second }) ∨
    (p ≠ terminator ∧ p ≠ escape ∧ stuffRegs p second done r = done r) := by
  unfold stuffRegs stuffSecond
  by_cases h1 : p = terminator
  · simp [h1]
  · by_cases h2 : p = escape
    · simp [h2]
    · simp [h1, h2]

/-- The bytes of `esc(p)`: the first, and the one that waits where there is one (R140, R153). -/
theorem esc_eq (p : Byte) : esc p = stuffFirst p :: (stuffSecond p).toList := by
  unfold esc stuffFirst stuffSecond
  by_cases h1 : p = terminator
  · simp [h1]
  · by_cases h2 : p = escape
    · simp [h2]
    · simp [h1, h2]

/-- Folding touches the frame-check value only (R182). -/
theorem foldFcs_cases (b : Byte) (r : TxRegs) :
    (r.chk = true ∧ foldFcs b r = { r with fcs := Config.crcUpdate r.fcs b }) ∨
    (r.chk = false ∧ foldFcs b r = r) := by
  unfold foldFcs; split <;> simp_all

/-- `afterByte` (R153). -/
theorem afterByte_cases (r : TxRegs) (i : Nat) :
    (i < r.len ∧ afterByte r i = .pay) ∨
    (r.len ≤ i ∧ r.chk = true ∧ afterByte r i = .clo) ∨
    (r.len ≤ i ∧ r.chk = false ∧ afterByte r i = .trail) := by
  unfold afterByte; split
  · simp_all
  · split <;> simp_all

/-! ### What whole steps leave alone -/

/-! `txStep`: the encode engine, its trace and the transmit lock only (R248) -/

@[simp] theorem txStep_cfg (s : State) : (txStep s).cfg = s.cfg := by
  unfold txStep; cases s.tx.state <;> simp
@[simp] theorem txStep_w (s : State) : (txStep s).w = s.w := by
  unfold txStep; cases s.tx.state <;> simp
@[simp] theorem txStep_faults (s : State) : (txStep s).faults = s.faults := by
  unfold txStep; cases s.tx.state <;> simp
@[simp] theorem txStep_views (s : State) : (txStep s).views = s.views := by
  unfold txStep; cases s.tx.state <;> simp
@[simp] theorem txStep_rx (s : State) : (txStep s).rx = s.rx := by
  unfold txStep; cases s.tx.state <;> simp
@[simp] theorem txStep_env (s : State) : (txStep s).env = s.env := by
  unfold txStep; cases s.tx.state <;> simp

/-! `rxStep`: the decode engine, its traces, the receive lock and `hfault` only (R248) -/

@[simp] theorem rxStep_cfg (s : State) : (rxStep s).cfg = s.cfg := by
  unfold rxStep drainStep escStep
  cases s.rx.state
  · rfl
  · dsimp only; split
    · split <;> simp
    · simp
  · dsimp only; split <;> simp
@[simp] theorem rxStep_w (s : State) : (rxStep s).w = s.w := by
  unfold rxStep drainStep escStep
  cases s.rx.state
  · rfl
  · dsimp only; split
    · split <;> simp
    · simp
  · dsimp only; split <;> simp
@[simp] theorem rxStep_views (s : State) : (rxStep s).views = s.views := by
  unfold rxStep drainStep escStep
  cases s.rx.state
  · rfl
  · dsimp only; split
    · split <;> simp
    · simp
  · dsimp only; split <;> simp
@[simp] theorem rxStep_tx (s : State) : (rxStep s).tx = s.tx := by
  unfold rxStep drainStep escStep
  cases s.rx.state
  · rfl
  · dsimp only; split
    · split <;> simp
    · simp
  · dsimp only; split <;> simp
@[simp] theorem rxStep_env (s : State) : (rxStep s).env = s.env := by
  unfold rxStep drainStep escStep
  cases s.rx.state
  · rfl
  · dsimp only; split
    · split <;> simp
    · simp
  · dsimp only; split <;> simp

/-! `startRx`, `clkTimer` -/

@[simp] theorem startRx_cfg (m : Mode) (q cap : Nat) (st : DecodeState) (s : State) :
    (startRx m q cap st s).cfg = s.cfg := by
  unfold startRx; dsimp only; split <;> simp
@[simp] theorem startRx_w (m : Mode) (q cap : Nat) (st : DecodeState) (s : State) :
    (startRx m q cap st s).w = s.w := by
  unfold startRx; dsimp only; split <;> simp
@[simp] theorem startRx_faults (m : Mode) (q cap : Nat) (st : DecodeState) (s : State) :
    (startRx m q cap st s).faults = s.faults := by
  unfold startRx; dsimp only; split <;> simp
@[simp] theorem startRx_views (m : Mode) (q cap : Nat) (st : DecodeState) (s : State) :
    (startRx m q cap st s).views = s.views := by
  unfold startRx; dsimp only; split <;> simp
@[simp] theorem startRx_tx (m : Mode) (q cap : Nat) (st : DecodeState) (s : State) :
    (startRx m q cap st s).tx = s.tx := by
  unfold startRx; dsimp only; split <;> simp
@[simp] theorem startRx_env (m : Mode) (q cap : Nat) (st : DecodeState) (s : State) :
    (startRx m q cap st s).env = s.env := by
  unfold startRx; dsimp only; split <;> simp
@[simp] theorem timeoutCause_tx : timeoutCause .tx = .txLockTimeout := rfl
@[simp] theorem timeoutCause_rx : timeoutCause .rx = .rxLockTimeout := rfl
@[simp] theorem clkTimer_cfg (ws as : List (Dir × Nat)) (s : State) :
    (clkTimer ws as s).cfg = s.cfg := by
  unfold clkTimer; repeat' split
  all_goals simp
@[simp] theorem clkTimer_w (ws as : List (Dir × Nat)) (s : State) :
    (clkTimer ws as s).w = s.w := by
  unfold clkTimer; repeat' split
  all_goals simp
@[simp] theorem clkTimer_views (ws as : List (Dir × Nat)) (s : State) :
    (clkTimer ws as s).views = s.views := by
  unfold clkTimer; repeat' split
  all_goals simp
@[simp] theorem clkTimer_rx (ws as : List (Dir × Nat)) (s : State) :
    (clkTimer ws as s).rx = s.rx := by
  unfold clkTimer; repeat' split
  all_goals simp
@[simp] theorem clkTimer_tx (ws as : List (Dir × Nat)) (s : State) :
    (clkTimer ws as s).tx = s.tx := by
  unfold clkTimer; repeat' split
  all_goals simp
@[simp] theorem clkTimer_ghost (ws as : List (Dir × Nat)) (s : State) :
    (clkTimer ws as s).ghost = s.ghost := by
  unfold clkTimer; repeat' split
  all_goals simp
@[simp] theorem clkTimer_env (ws as : List (Dir × Nat)) (s : State) :
    (clkTimer ws as s).env = s.env := by
  unfold clkTimer; repeat' split
  all_goals simp

/-- Everything the end of a cycle can do (R218, R221, R246). -/
theorem clkTimer_cases (ws as : List (Dir × Nat)) (s : State) :
    (hostHalted s = true ∧ clkTimer ws as s = s) ∨
    (∃ d, hostHalted s = false ∧ timesOut ws as d s = true ∧
      clkTimer ws as s = raiseFatal (timeoutCause d) s) ∨
    (hostHalted s = false ∧ timesOut ws as .tx s = false ∧ timesOut ws as .rx s = false ∧
      clkTimer ws as s = { s with locks := { s.locks with
        txWait := tickedWaits ws .tx s, rxWait := tickedWaits ws .rx s } }) := by
  unfold clkTimer
  split
  · exact .inl ⟨by assumption, rfl⟩
  · rename_i h
    have h : hostHalted s = false := by simpa using h
    split
    · exact .inr (.inl ⟨.tx, h, by assumption, rfl⟩)
    · split
      · exact .inr (.inl ⟨.rx, h, by assumption, rfl⟩)
      · exact .inr (.inr ⟨h, by simp_all, by simp_all, rfl⟩)

end Sys2Proof.Machine
end

