-- ==== Sys2Proof/Laws/PerInstr.lean ====
section
/-! SUPPORT. Statements for all operations, made per operation: the family `Encoding`. -/

namespace Sys2Proof.Laws.Encoding

/-- The port word of an operation stands in the operation's row of spec/opcode_table.json: it has the
row's format, and, when the operation is well-formed, the row's pattern holds of its bits (R104). -/
def Statement (i : Instr) : Prop :=
  ∃ r ∈ opcodeTable, r.mnemonic = i.mnemonic ∧ r.format = (encode i).format ∧
    ∀ c : Params, i.wf c = true → r.pattern.holds c (encode i).bits = true

theorem ingest (b : Byte) :
    Statement (.ingest b) :=
  ⟨⟨"INGEST", .ingestPort, .bits 0x1 0x1⟩,
    by simp [opcodeTable, wireRows, stepRows, internalRows], rfl, rfl,
    fun _ _ => by simp [RowPattern.holds, encode, PortWord.bits]⟩

theorem slipEnc (q len : Nat) (payload : List Byte) :
    Statement (.slipEnc q len payload) :=
  ⟨⟨"SLIP_ENC", .txCommand, .bits 0x1 0x0⟩,
    by simp [opcodeTable, wireRows, stepRows, internalRows], rfl, rfl,
    fun _ _ => by simp [RowPattern.holds, encode, PortWord.bits]⟩

theorem smxEnc (q : Nat) (t : Byte) (len : Nat) (payload : List Byte) :
    Statement (.smxEnc q t len payload) :=
  ⟨⟨"SMX_ENC", .txCommand, .bits 0x1 0x1⟩,
    by simp [opcodeTable, wireRows, stepRows, internalRows], rfl, rfl,
    fun _ _ => by simp [RowPattern.holds, encode, PortWord.bits]⟩

theorem slipDec (q cap : Nat) :
    Statement (.slipDec q cap) :=
  ⟨⟨"SLIP_DEC", .rxCommand, .bits 0x1 0x0⟩,
    by simp [opcodeTable, wireRows, stepRows, internalRows], rfl, rfl,
    fun _ _ => by simp [RowPattern.holds, encode, PortWord.bits]⟩

theorem smxDec (q cap : Nat) (stIn : DecodeState) :
    Statement (.smxDec q cap stIn) :=
  ⟨⟨"SMX_DEC", .rxCommand, .bits 0x1 0x1⟩,
    by simp [opcodeTable, wireRows, stepRows, internalRows], rfl, rfl,
    fun _ _ => by simp [RowPattern.holds, encode, PortWord.bits]⟩

theorem ingestTerminator : Statement .ingestTerminator :=
  ⟨⟨"INGEST.TERMINATOR", .ingestByte, .bits 0xFF 0xC0⟩,
    by simp [opcodeTable, wireRows, stepRows, internalRows], rfl, rfl,
    fun _ _ => rfl⟩

theorem ingestOther (b : Byte) :
    Statement (.ingestOther b) :=
  ⟨⟨"INGEST.OTHER", .ingestByte, .bits 0x00 0x00⟩,
    by simp [opcodeTable, wireRows, stepRows, internalRows], rfl, rfl,
    fun _ _ => by simp [RowPattern.holds]⟩

theorem drainTerminator : Statement .drainTerminator :=
  ⟨⟨"DRAIN.TERMINATOR", .rxDrainByte, .bits 0xFF 0xC0⟩,
    by simp [opcodeTable, wireRows, stepRows, internalRows], rfl, rfl,
    fun _ _ => rfl⟩

theorem drainEscape : Statement .drainEscape :=
  ⟨⟨"DRAIN.ESCAPE", .rxDrainByte, .bits 0xFF 0xDB⟩,
    by simp [opcodeTable, wireRows, stepRows, internalRows], rfl, rfl,
    fun _ _ => rfl⟩

theorem drainOther (b : Byte) :
    Statement (.drainOther b) :=
  ⟨⟨"DRAIN.OTHER", .rxDrainByte, .bits 0x00 0x00⟩,
    by simp [opcodeTable, wireRows, stepRows, internalRows], rfl, rfl,
    fun _ _ => by simp [RowPattern.holds]⟩

theorem escEscapedTerminator : Statement .escEscapedTerminator :=
  ⟨⟨"ESC.ESCAPED_TERMINATOR", .rxEscByte, .bits 0xFF 0xDC⟩,
    by simp [opcodeTable, wireRows, stepRows, internalRows], rfl, rfl,
    fun _ _ => rfl⟩

theorem escEscapedEscape : Statement .escEscapedEscape :=
  ⟨⟨"ESC.ESCAPED_ESCAPE", .rxEscByte, .bits 0xFF 0xDD⟩,
    by simp [opcodeTable, wireRows, stepRows, internalRows], rfl, rfl,
    fun _ _ => rfl⟩

theorem escOther (f : Byte) :
    Statement (.escOther f) :=
  ⟨⟨"ESC.OTHER", .rxEscByte, .bits 0x00 0x00⟩,
    by simp [opcodeTable, wireRows, stepRows, internalRows], rfl, rfl,
    fun _ _ => by simp [RowPattern.holds]⟩

theorem stuffTerminator : Statement .stuffTerminator :=
  ⟨⟨"STUFF.TERMINATOR", .txPayloadByte, .bits 0xFF 0xC0⟩,
    by simp [opcodeTable, wireRows, stepRows, internalRows], rfl, rfl,
    fun _ _ => rfl⟩

theorem stuffEscape : Statement .stuffEscape :=
  ⟨⟨"STUFF.ESCAPE", .txPayloadByte, .bits 0xFF 0xDB⟩,
    by simp [opcodeTable, wireRows, stepRows, internalRows], rfl, rfl,
    fun _ _ => rfl⟩

theorem stuffOther (p : Byte) :
    Statement (.stuffOther p) :=
  ⟨⟨"STUFF.OTHER", .txPayloadByte, .bits 0x00 0x00⟩,
    by simp [opcodeTable, wireRows, stepRows, internalRows], rfl, rfl,
    fun _ _ => by simp [RowPattern.holds]⟩

theorem typeRaw (t : Byte) :
    Statement (.typeRaw t) :=
  ⟨⟨"TYPE.RAW", .txTypeByte, .bits 0x00 0x00⟩,
    by simp [opcodeTable, wireRows, stepRows, internalRows], rfl, rfl,
    fun _ _ => by simp [RowPattern.holds]⟩

theorem typeChecksum (d : Dir) (t : Byte) :
    Statement (.typeChecksum d t) :=
  ⟨⟨"TYPE.CHECKSUM", .typeClass, .chkType⟩,
    by simp [opcodeTable, wireRows, stepRows, internalRows], rfl, rfl,
    fun _ h => by
      simpa [Instr.wf, RowPattern.holds, encode, PortWord.bits] using congrArg BitVec.toNat (eq_of_beq h)⟩

theorem typePlain (d : Dir) (t : Byte) :
    Statement (.typePlain d t) :=
  ⟨⟨"TYPE.PLAIN", .typeClass, .bits 0x00 0x00⟩,
    by simp [opcodeTable, wireRows, stepRows, internalRows], rfl, rfl,
    fun _ _ => by simp [RowPattern.holds]⟩

theorem tLead : Statement .tLead :=
  ⟨⟨"T_LEAD", .txStep, .bits 0xF 0x1⟩,
    by simp [opcodeTable, wireRows, stepRows, internalRows], rfl, rfl,
    fun _ _ => rfl⟩

theorem tType : Statement .tType :=
  ⟨⟨"T_TYPE", .txStep, .bits 0xF 0x2⟩,
    by simp [opcodeTable, wireRows, stepRows, internalRows], rfl, rfl,
    fun _ _ => rfl⟩

theorem tPay : Statement .tPay :=
  ⟨⟨"T_PAY", .txStep, .bits 0xF 0x3⟩,
    by simp [opcodeTable, wireRows, stepRows, internalRows], rfl, rfl,
    fun _ _ => rfl⟩

theorem tPay2 : Statement .tPay2 :=
  ⟨⟨"T_PAY2", .txStep, .bits 0xF 0x4⟩,
    by simp [opcodeTable, wireRows, stepRows, internalRows], rfl, rfl,
    fun _ _ => rfl⟩

theorem tClo : Statement .tClo :=
  ⟨⟨"T_CLO", .txStep, .bits 0xF 0x5⟩,
    by simp [opcodeTable, wireRows, stepRows, internalRows], rfl, rfl,
    fun _ _ => rfl⟩

theorem tClo2 : Statement .tClo2 :=
  ⟨⟨"T_CLO2", .txStep, .bits 0xF 0x6⟩,
    by simp [opcodeTable, wireRows, stepRows, internalRows], rfl, rfl,
    fun _ _ => rfl⟩

theorem tChi : Statement .tChi :=
  ⟨⟨"T_CHI", .txStep, .bits 0xF 0x7⟩,
    by simp [opcodeTable, wireRows, stepRows, internalRows], rfl, rfl,
    fun _ _ => rfl⟩

theorem tChi2 : Statement .tChi2 :=
  ⟨⟨"T_CHI2", .txStep, .bits 0xF 0x8⟩,
    by simp [opcodeTable, wireRows, stepRows, internalRows], rfl, rfl,
    fun _ _ => rfl⟩

theorem tTrail : Statement .tTrail :=
  ⟨⟨"T_TRAIL", .txStep, .bits 0xF 0x9⟩,
    by simp [opcodeTable, wireRows, stepRows, internalRows], rfl, rfl,
    fun _ _ => rfl⟩

theorem rDrain : Statement .rDrain :=
  ⟨⟨"R_DRAIN", .rxStep, .bits 0x3 0x1⟩,
    by simp [opcodeTable, wireRows, stepRows, internalRows], rfl, rfl,
    fun _ _ => rfl⟩

theorem rEsc : Statement .rEsc :=
  ⟨⟨"R_ESC", .rxStep, .bits 0x3 0x2⟩,
    by simp [opcodeTable, wireRows, stepRows, internalRows], rfl, rfl,
    fun _ _ => rfl⟩

theorem push (b : Byte) :
    Statement (.push b) :=
  ⟨⟨"PUSH", .internalStep, .byName⟩,
    by simp [opcodeTable, wireRows, stepRows, internalRows], rfl, rfl,
    fun _ _ => rfl⟩

theorem pop : Statement .pop :=
  ⟨⟨"POP", .internalStep, .byName⟩,
    by simp [opcodeTable, wireRows, stepRows, internalRows], rfl, rfl,
    fun _ _ => rfl⟩

theorem synW2r (iw ic : Nat) :
    Statement (.synW2r iw ic) :=
  ⟨⟨"SYN_W2R", .internalStep, .byName⟩,
    by simp [opcodeTable, wireRows, stepRows, internalRows], rfl, rfl,
    fun _ _ => rfl⟩

theorem synR2w (ir : Nat) :
    Statement (.synR2w ir) :=
  ⟨⟨"SYN_R2W", .internalStep, .byName⟩,
    by simp [opcodeTable, wireRows, stepRows, internalRows], rfl, rfl,
    fun _ _ => rfl⟩

theorem synFault (target : Domain) :
    Statement (.synFault target) :=
  ⟨⟨"SYN_FAULT", .internalStep, .byName⟩,
    by simp [opcodeTable, wireRows, stepRows, internalRows], rfl, rfl,
    fun _ _ => rfl⟩

theorem lockGrant (d : Dir) (q : Nat) :
    Statement (.lockGrant d q) :=
  ⟨⟨"LOCK_GRANT", .internalStep, .byName⟩,
    by simp [opcodeTable, wireRows, stepRows, internalRows], rfl, rfl,
    fun _ _ => rfl⟩

theorem lockRelease (d : Dir) :
    Statement (.lockRelease d) :=
  ⟨⟨"LOCK_RELEASE", .internalStep, .byName⟩,
    by simp [opcodeTable, wireRows, stepRows, internalRows], rfl, rfl,
    fun _ _ => rfl⟩

theorem lockTimeout (d : Dir) (q : Nat) :
    Statement (.lockTimeout d q) :=
  ⟨⟨"LOCK_TIMEOUT", .internalStep, .byName⟩,
    by simp [opcodeTable, wireRows, stepRows, internalRows], rfl, rfl,
    fun _ _ => rfl⟩

theorem reset (lines : ResetLines) :
    Statement (.reset lines) :=
  ⟨⟨"RESET", .internalStep, .byName⟩,
    by simp [opcodeTable, wireRows, stepRows, internalRows], rfl, rfl,
    fun _ _ => rfl⟩

end Sys2Proof.Laws.Encoding
end

