-- ==== Sys2Proof/Laws/Steps.lean ====
section
/-! SUPPORT. Said once what a step of the machine can be: a chain of the agents' atomic steps and of the
environment's actions, each with its guard.  A property that each of them keeps is kept by `exec` and by
`step`. -/

namespace Sys2Proof.Machine

open Relation (ReflTransGen)

/-- The state whose host-domain fault bits a command start tests: the beginning of its cycle, or, outside a
cycle, the state itself (R246(e)). -/
def edgeState (edge : Option State) (s : State) : State := edge.getD s

@[simp] theorem edgeState_none (s : State) : edgeState none s = s := rfl

@[simp] theorem edgeState_some (edge s : State) : edgeState (some edge) s = edge := rfl

@[simp] theorem withHostFaultsOf_self (s : State) : withHostFaultsOf s s = s := rfl

/-- One atomic step of an agent (spec/00_scope.md R15) or one action of the environment, in a cycle that
began in `edge`, or outside one. -/
inductive AtomicStep (edge : Option State) : State → State → Prop where
  | ingest (s : State) (b : Byte) : writeHalted s = false → fullW s = false →
      AtomicStep edge s (ingestByte b s)
  | ingestFull (s : State) : writeHalted s = false → fullW s = true →
      AtomicStep edge s (raiseFatal .queueFullOnIngest s)
  | pop (s : State) : hostHalted s = false → s.locks.rxLock = false → emptyR s = false →
      AtomicStep edge s (popByte s)
  | tx (s : State) : txReady s = true → AtomicStep edge s (txStep s)
  | rx (s : State) : hostHalted s = false → AtomicStep edge s (rxStep s)
  | startTx (s : State) (q len : Nat) (p : List Byte) : q < s.cfg.nreq →
      plainStarts .tx (withHostFaultsOf (edgeState edge s) s) = true →
      AtomicStep edge s (startTx .slip q 0#8 len (setTxPort q 0#8 len p s))
  | startRx (s : State) (q cap : Nat) (st : DecodeState) : q < s.cfg.nreq →
      plainStarts .rx (withHostFaultsOf (edgeState edge s) s) = true →
      AtomicStep edge s (startRx .slip q cap st s)
  | refuse (s : State) (d : Dir) (q : Nat) : q < s.cfg.nreq → AtomicStep edge s (markRefused d q s)
  | postTx (s : State) (q : Nat) (t : Byte) (len : Nat) (p : List Byte) : q < s.cfg.nreq →
      hostHalted (edgeState edge s) = false → slotBusy .tx q s = false →
      AtomicStep edge s (setTxPort q t len p { s with locks := setRequest .tx q true s.locks })
  | postRx (s : State) (q cap : Nat) (st : DecodeState) : q < s.cfg.nreq →
      hostHalted (edgeState edge s) = false → slotBusy .rx q s = false →
      AtomicStep edge s (setRxPort q cap st { s with locks := setRequest .rx q true s.locks })
  | grantTx (s : State) (q : Nat) : q < s.cfg.nreq →
      grantable .tx q (withHostFaultsOf (edgeState edge s) s) = true →
      AtomicStep edge s (grantTx q s)
  | grantRx (s : State) (q : Nat) : q < s.cfg.nreq →
      grantable .rx q (withHostFaultsOf (edgeState edge s) s) = true →
      AtomicStep edge s (grantRx q s)
  | timeout (s : State) (d : Dir) (q : Nat) : q < s.cfg.nreq → blocked d q s = true →
      hostHalted s = false → AtomicStep edge s (raiseFatal (timeoutCause d) s)
  | synW2r (s : State) (iw ic : Nat) : w2rAdmits iw ic s = true →
      AtomicStep edge s { s with
        views := { s.views with
          wptrR := iw % 2 ^ (s.cfg.aw + 1)
          closedR := s.ghost.cseq.getD ic 0 % 2 ^ s.cfg.cw }
        ghost := { s.ghost with iw := iw, ic := ic } }
  | synR2w (s : State) (ir : Nat) : r2wAdmits ir s = true →
      AtomicStep edge s { s with
        views := { s.views with rptrW := ir % 2 ^ (s.cfg.aw + 1) }
        ghost := { s.ghost with ir := ir } }
  | synFaultHost (s : State) :
      AtomicStep edge s { s with views := { s.views with wfaultH := s.faults.wfault } }
  | synFaultWrite (s : State) :
      AtomicStep edge s { s with views := { s.views with hfaultW := s.faults.hfault != .none } }
  | tick (s : State) (waited asked : List (Dir × Nat)) : (∀ p ∈ waited, blocked p.1 p.2 s = true) →
      AtomicStep edge s (clkTimer waited asked s)
  | inputs (s : State) (script : List Event) (strobes : List Strobe) (ready : Bool) :
      AtomicStep edge s { s with env := { s.env with
        script := script, strobes := strobes, sinkReady := ready } }
  | payload (s : State) (q : Nat) (bytes : List Byte) : AtomicStep edge s (setPayload q bytes s)

/-- An atomic step, a bare `PUSH` (log 11), or, where `mayReset` holds, a reset. -/
inductive AnyStep (edge : Option State) (mayReset : Prop) : State → State → Prop where
  | atomic {s t : State} : AtomicStep edge s t → AnyStep edge mayReset s t
  | push (s : State) (b : Byte) : writeHalted s = false → fullW s = false →
      AnyStep edge mayReset s (noteCounted false (pushByte b s))
  | reset (s : State) : mayReset → s.env.strobes = [] → AnyStep edge mayReset s (resetBlock s)

variable {edge : Option State} {mayReset : Prop}

/-- The emitting steps leave what makes them ready. -/
theorem txReady_txStep (s : State) : txReady (txStep s) = txReady s := by
  unfold txStep
  cases s.tx.state <;> rfl

theorem chain_of_eq {s t : State} (h : t = s) : ReflTransGen (AtomicStep edge) s t := h ▸ .refl

theorem chain_ingest (b : Byte) (s : State) : ReflTransGen (AtomicStep edge) s (ingestByte b s) := by
  rcases ingestByte_cases b s with ⟨_, e⟩ | ⟨h1, h2, e⟩ | ⟨h1, h2, _⟩
  · rw [e]
  · rw [e]; exact .single (.ingestFull s h1 h2)
  · exact .single (.ingest s b h1 h2)

theorem chain_whenTxAt (st : TxState) (act : State → State) (s : State)
    (h : s.tx.state = st → act s = txStep s) :
    ReflTransGen (AtomicStep edge) s (whenTxAt st act s) := by
  unfold whenTxAt txAt
  split
  · rename_i hh
    simp only [Bool.and_eq_true, beq_iff_eq] at hh
    rw [h hh.1]; exact .single (.tx s hh.2)
  · exact .refl

theorem chain_stuffWhole (s : State) (h : txReady s = true) :
    ReflTransGen (AtomicStep edge) s (stuffWhole s) ∧ txReady (stuffWhole s) = true := by
  have h1 : txReady (txStep s) = true := (txReady_txStep s).trans h
  have h2 : txReady (txStep (txStep s)) = true := (txReady_txStep _).trans h1
  have step1 : ReflTransGen (AtomicStep edge) s (txStep s) := .single (.tx s h)
  have step2 := step1.tail (.tx _ h1)
  simp only [stuffWhole]
  split
  · rename_i e
    have : txStep (txStep s) = pay2Step (txStep s) := by rw [txStep.eq_def (txStep s), e]
    rw [← this]; exact ⟨step2, h2⟩
  · rename_i e
    have : txStep (txStep s) = clo2Step (txStep s) := by rw [txStep.eq_def (txStep s), e]
    rw [← this]; exact ⟨step2, h2⟩
  · rename_i e
    have : txStep (txStep s) = chi2Step (txStep s) := by rw [txStep.eq_def (txStep s), e]
    rw [← this]; exact ⟨step2, h2⟩
  · exact ⟨step1, h1⟩

theorem chain_stuffClass (b : Byte) (s : State) :
    ReflTransGen (AtomicStep edge) s (stuffClass b s) := by
  unfold stuffClass
  split
  · rename_i h
    simp only [Bool.and_eq_true] at h
    exact (chain_stuffWhole s h.1).1
  · exact .refl

theorem chain_rx (s : State) (h : hostHalted s = false) :
    ReflTransGen (AtomicStep edge) s (rxStep s) := .single (.rx s h)

theorem rxAt_eq {st : RxState} {s : State} (h : rxAt st s = true) :
    s.rx.state = st ∧ hostHalted s = false := by
  simpa [rxAt] using h

theorem chain_drain (s : State) (h : rxAt .drain s = true) :
    ReflTransGen (AtomicStep edge) s (drainStep s) := by
  obtain ⟨h1, h2⟩ := rxAt_eq h
  have : rxStep s = drainStep s := by unfold rxStep; rw [h1]
  exact this ▸ chain_rx s h2

theorem chain_esc (s : State) (h : rxAt .esc s = true) :
    ReflTransGen (AtomicStep edge) s (escStep s) := by
  obtain ⟨h1, h2⟩ := rxAt_eq h
  have : rxStep s = escStep s := by unfold rxStep; rw [h1]
  exact this ▸ chain_rx s h2

theorem chain_popClass (st : RxState) (b : Byte) (s : State) :
    ReflTransGen (AtomicStep edge) s (popClass st b s) := by
  unfold popClass
  split
  · rename_i h
    simp only [Bool.and_eq_true] at h
    exact chain_rx s (rxAt_eq h.1.1).2
  · exact .refl

theorem chain_typeChecksum (d : Dir) (ty : Byte) (s t : State)
    (h : execTypeChecksum d ty s = .next t) : ReflTransGen (AtomicStep edge) s t := by
  unfold execTypeChecksum at h
  injection h with h
  subst h
  split
  · exact .refl
  · split
    · split
      · rename_i hh
        have hr : txReady s = true := by
          simp only [txHasType, Bool.and_eq_true] at hh; exact hh.1.1
        split
        · rename_i e
          have : txStep s = typeStep s := by unfold txStep; rw [e]
          exact this ▸ .single (.tx s hr)
        · exact (chain_stuffWhole s hr).1.trans (chain_stuffWhole _ (chain_stuffWhole (edge := edge) s hr).2).1
        · exact .refl
      · exact .refl
    · split
      · rename_i hh
        simp only [rxCompletesType, Bool.and_eq_true] at hh
        exact chain_drain s hh.1.1.1.1.1.1
      · exact .refl

theorem chain_typePlain (d : Dir) (ty : Byte) (s t : State)
    (h : execTypePlain d ty s = .next t) : ReflTransGen (AtomicStep edge) s t := by
  unfold execTypePlain at h
  injection h with h
  subst h
  split
  · exact .refl
  · split
    · split
      · exact chain_whenTxAt _ _ s (fun e => by unfold txStep; rw [e])
      · exact .refl
    · split
      · rename_i hh
        simp only [rxCompletesType, Bool.and_eq_true] at hh
        exact chain_drain s hh.1.1.1.1.1.1
      · exact .refl

theorem chain_lockRelease (d : Dir) (s t : State)
    (h : execLockRelease d s = .next t) : ReflTransGen (AtomicStep edge) s t := by
  unfold execLockRelease at h
  injection h with h
  subst h
  cases d with
  | tx =>
    dsimp only
    split
    · exact chain_whenTxAt _ _ s (fun e => by unfold txStep; rw [e])
    · exact .refl
  | rx =>
    dsimp only
    split
    · rename_i hh
      simp only [Bool.and_eq_true, Bool.not_eq_true'] at hh
      exact chain_rx s hh.1.1
    · exact .refl

/-- A post outside a cycle. -/
theorem chain_posts (i : Instr) (s t : State)
    (hi : (∃ q n p, i = .slipEnc q n p) ∨ (∃ q ty n p, i = .smxEnc q ty n p) ∨
      (∃ q c, i = .slipDec q c) ∨ (∃ q c st, i = .smxDec q c st))
    (h : exec i s = .next t) : ReflTransGen (AtomicStep none) s t := by
  rcases hi with ⟨q, n, p, rfl⟩ | ⟨q, ty, n, p, rfl⟩ | ⟨q, c, rfl⟩ | ⟨q, c, st, rfl⟩
  · obtain ⟨hq, h⟩ := withSlot_eq_next.1 h
    injection h with h
    subst h
    split
    · exact .single (.startTx s q n p hq (by assumption))
    · exact .single (.refuse s .tx q hq)
  · obtain ⟨hq, h⟩ := withSlot_eq_next.1 h
    split at h
    · injection h with h; exact chain_of_eq h.symm
    · split at h
      · cases h
      · injection h with h
        subst h
        exact .single (.postTx s q ty n p hq (by simp_all) (by simp_all))
  · obtain ⟨hq, h⟩ := withSlot_eq_next.1 h
    injection h with h
    subst h
    split
    · exact .single (.startRx s q c _ hq (by assumption))
    · exact .single (.refuse s .rx q hq)
  · obtain ⟨hq, h⟩ := withSlot_eq_next.1 h
    split at h
    · injection h with h; exact chain_of_eq h.symm
    · split at h
      · cases h
      · injection h with h
        subst h
        exact .single (.postRx s q c st hq (by simp_all) (by simp_all))

/-- A grant outside a cycle. -/
theorem chain_grant (d : Dir) (q : Nat) (s t : State) (h : exec (.lockGrant d q) s = .next t) :
    ReflTransGen (AtomicStep none) s t := by
  obtain ⟨hq, h⟩ := withSlot_eq_next.1 h
  injection h with h
  subst h
  cases d with
  | tx =>
    split
    · exact .single (.grantTx s q hq (by assumption))
    · exact .refl
  | rx =>
    split
    · exact .single (.grantRx s q hq (by assumption))
    · exact .refl

theorem chain_timeout (d : Dir) (q : Nat) (s t : State) (h : exec (.lockTimeout d q) s = .next t) :
    ReflTransGen (AtomicStep edge) s t := by
  obtain ⟨hq, h⟩ := withSlot_eq_next.1 h
  injection h with h
  subst h
  split
  · rename_i hh
    simp only [Bool.and_eq_true, Bool.not_eq_true'] at hh
    exact .single (.timeout s d q hq hh.1 hh.2)
  · exact .refl

/-- Everything an operation but a bare `PUSH` and `RESET` can do is a chain of atomic steps; what is no
command start does not depend on how its cycle began. -/
theorem exec_chain_of (i : Instr) (s t : State) (he : edge = none ∨ startsCommand i = false)
    (hi : ∀ b, i ≠ .push b) (hr : ∀ l, i ≠ .reset l) (h : exec i s = .next t) :
    ReflTransGen (AtomicStep edge) s t := by
  have start (hs : startsCommand i = true) (hc : ReflTransGen (AtomicStep none) s t) :
      ReflTransGen (AtomicStep edge) s t := by
    rcases he with he | he
    · exact he ▸ hc
    · rw [hs] at he; cases he
  cases i with
  | ingest b => injection h with h; exact h ▸ chain_ingest b s
  | slipEnc q n p => exact start rfl (chain_posts _ s t (.inl ⟨q, n, p, rfl⟩) h)
  | smxEnc q ty n p => exact start rfl (chain_posts _ s t (.inr (.inl ⟨q, ty, n, p, rfl⟩)) h)
  | slipDec q c => exact start rfl (chain_posts _ s t (.inr (.inr (.inl ⟨q, c, rfl⟩))) h)
  | smxDec q c st => exact start rfl (chain_posts _ s t (.inr (.inr (.inr ⟨q, c, st, rfl⟩))) h)
  | ingestTerminator => injection h with h; exact h ▸ chain_ingest _ s
  | ingestOther b =>
    injection h with h; subst h
    split
    · exact .refl
    · exact chain_ingest b s
  | drainTerminator => injection h with h; exact h ▸ chain_popClass _ _ s
  | drainEscape => injection h with h; exact h ▸ chain_popClass _ _ s
  | drainOther b =>
    injection h with h; subst h
    split
    · exact .refl
    · exact chain_popClass _ _ s
  | escEscapedTerminator => injection h with h; exact h ▸ chain_popClass _ _ s
  | escEscapedEscape => injection h with h; exact h ▸ chain_popClass _ _ s
  | escOther f =>
    injection h with h; subst h
    split
    · exact .refl
    · exact chain_popClass _ _ s
  | stuffTerminator => injection h with h; exact h ▸ chain_stuffClass _ s
  | stuffEscape => injection h with h; exact h ▸ chain_stuffClass _ s
  | stuffOther p =>
    injection h with h; subst h
    split
    · exact .refl
    · exact chain_stuffClass _ s
  | typeRaw ty =>
    injection h with h; subst h
    split
    · exact chain_whenTxAt _ _ s (fun e => by unfold txStep; rw [e])
    · exact .refl
  | typeChecksum d ty => exact chain_typeChecksum d ty s t h
  | typePlain d ty => exact chain_typePlain d ty s t h
  | tLead => injection h with h; exact h ▸ chain_whenTxAt _ _ s (fun e => by unfold txStep; rw [e])
  | tType => injection h with h; exact h ▸ chain_whenTxAt _ _ s (fun e => by unfold txStep; rw [e])
  | tPay => injection h with h; exact h ▸ chain_whenTxAt _ _ s (fun e => by unfold txStep; rw [e])
  | tPay2 => injection h with h; exact h ▸ chain_whenTxAt _ _ s (fun e => by unfold txStep; rw [e])
  | tClo => injection h with h; exact h ▸ chain_whenTxAt _ _ s (fun e => by unfold txStep; rw [e])
  | tClo2 => injection h with h; exact h ▸ chain_whenTxAt _ _ s (fun e => by unfold txStep; rw [e])
  | tChi => injection h with h; exact h ▸ chain_whenTxAt _ _ s (fun e => by unfold txStep; rw [e])
  | tChi2 => injection h with h; exact h ▸ chain_whenTxAt _ _ s (fun e => by unfold txStep; rw [e])
  | tTrail => injection h with h; exact h ▸ chain_whenTxAt _ _ s (fun e => by unfold txStep; rw [e])
  | rDrain =>
    injection h with h; subst h
    split
    · exact chain_drain s (by assumption)
    · exact .refl
  | rEsc =>
    injection h with h; subst h
    split
    · exact chain_esc s (by assumption)
    · exact .refl
  | push b => exact absurd rfl (hi b)
  | pop =>
    injection h with h; subst h
    split
    · exact .refl
    · rename_i hh
      simp only [Bool.or_eq_true, not_or, Bool.not_eq_true] at hh
      exact .single (.pop s hh.1.1 hh.1.2 hh.2)
  | synW2r iw ic =>
    injection h with h; subst h
    split
    · exact .single (.synW2r s iw ic (by assumption))
    · exact .refl
  | synR2w ir =>
    injection h with h; subst h
    split
    · exact .single (.synR2w s ir (by assumption))
    · exact .refl
  | synFault target =>
    injection h with h; subst h
    cases target
    · exact .single (.synFaultWrite s)
    · exact .single (.synFaultHost s)
  | lockGrant d q => exact start rfl (chain_grant d q s t h)
  | lockRelease d => exact chain_lockRelease d s t h
  | lockTimeout d q => exact chain_timeout d q s t h
  | reset lines => exact absurd rfl (hr lines)

/-- Everything an operation but a bare `PUSH` and `RESET` can do outside a cycle. -/
theorem exec_chain (i : Instr) (s t : State) (hi : ∀ b, i ≠ .push b) (hr : ∀ l, i ≠ .reset l)
    (h : exec i s = .next t) : ReflTransGen (AtomicStep none) s t :=
  exec_chain_of i s t (.inl rfl) hi hr h

/-- Everything any operation can do. -/
theorem exec_anyChain (i : Instr) (s t : State) (he : edge = none ∨ startsCommand i = false)
    (hm : ∀ l, i = .reset l → mayReset) (h : exec i s = .next t) :
    ReflTransGen (AnyStep edge mayReset) s t := by
  by_cases hi : ∀ b, i ≠ .push b
  · by_cases hr : ∀ l, i ≠ .reset l
    · exact Relation.ReflTransGen.mono (fun _ _ => .atomic) _ _ (exec_chain_of i s t he hi hr h)
    · simp only [ne_eq, not_forall, not_not] at hr
      obtain ⟨lines, rfl⟩ := hr
      cases lines with
      | both =>
        simp only [exec, execReset] at h
        split at h
        · injection h with h; subst h; exact .single (.reset s (hm _ rfl) (by assumption))
        · cases h
      | writeOnly => cases h
      | hostOnly => cases h
  · simp only [ne_eq, not_forall, not_not] at hi
    obtain ⟨b, rfl⟩ := hi
    injection h with h; subst h
    split
    · exact .refl
    · rename_i hh
      simp only [Bool.or_eq_true, not_or, Bool.not_eq_true] at hh
      exact .single (.push s b hh.1 hh.2)

theorem execAll_anyChain (is : List Instr) (s t : State) (hm : ∀ l, .reset l ∈ is → mayReset)
    (h : execAll is s = .next t) : ReflTransGen (AnyStep none mayReset) s t := by
  induction is generalizing s with
  | nil => injection h with h; exact h ▸ .refl
  | cons i is ih =>
    simp only [execAll] at h
    split at h
    · rename_i u hu
      exact (exec_anyChain i s u (.inl rfl) (fun l e => hm l (e ▸ List.mem_cons_self)) hu).trans
        (ih u (fun l hl => hm l (List.mem_cons_of_mem _ hl)) h)
    · cases h
    · cases h

/-! ### The operations of one cycle (R246(e)) -/

/-- A start of the encode engine commutes with what the fault bits are. -/
theorem startTx_withHostFaultsOf (edge s : State) (m : Mode) (q len : Nat) (t : Byte) :
    withHostFaultsOf s (startTx m q t len (withHostFaultsOf edge s)) = startTx m q t len s := rfl

/-- A start of the decode engine commutes with what the fault bits are. -/
theorem startRx_withHostFaultsOf (edge s : State) (m : Mode) (q cap : Nat) (st : DecodeState) :
    withHostFaultsOf s (startRx m q cap st (withHostFaultsOf edge s)) = startRx m q cap st s := by
  have e : countR (withHostFaultsOf edge s) = countR s := rfl
  cases m <;> (simp only [startRx, e]; split <;> rfl)

/-- Everything a command start in a cycle that began in `edge` can do. -/
theorem execOnEdge_anyChain (edge : State) (i : Instr) (s t : State) (hi : startsCommand i = true)
    (h : execOnEdge edge i s = .next t) : ReflTransGen (AnyStep (some edge) mayReset) s t := by
  unfold execOnEdge at h
  split at h
  · rename_i u hu
    injection h with h
    subst h
    refine Relation.ReflTransGen.mono (fun _ _ => .atomic) _ _ ?_
    have slot {q : Nat} {k} (hk : withSlot q (withHostFaultsOf edge s) k = .next u) :
        q < s.cfg.nreq ∧ k = .next u := withSlot_eq_next.1 hk
    cases i <;> simp only [startsCommand, Bool.false_eq_true] at hi
    case slipEnc q n p =>
      obtain ⟨hq, hu⟩ := slot hu
      injection hu with hu
      subst hu
      split
      · exact .single (.startTx s q n p hq (by assumption))
      · exact .single (.refuse s .tx q hq)
    case smxEnc q ty n p =>
      obtain ⟨hq, hu⟩ := slot hu
      split at hu
      · injection hu with hu; subst hu; exact .refl
      · rename_i hh
        split at hu
        · cases hu
        · rename_i hb
          injection hu with hu; subst hu
          exact .single (.postTx s q ty n p hq (Bool.eq_false_iff.2 hh)
            (Bool.eq_false_iff.2 hb))
    case slipDec q c =>
      obtain ⟨hq, hu⟩ := slot hu
      injection hu with hu
      subst hu
      split
      · rw [startRx_withHostFaultsOf]
        exact .single (.startRx s q c _ hq (by assumption))
      · exact .single (.refuse s .rx q hq)
    case smxDec q c st =>
      obtain ⟨hq, hu⟩ := slot hu
      split at hu
      · injection hu with hu; subst hu; exact .refl
      · rename_i hh
        split at hu
        · cases hu
        · rename_i hb
          injection hu with hu; subst hu
          exact .single (.postRx s q c st hq (Bool.eq_false_iff.2 hh)
            (Bool.eq_false_iff.2 hb))
    case lockGrant d q =>
      obtain ⟨hq, hu⟩ := slot hu
      injection hu with hu
      subst hu
      cases d with
      | tx =>
        split
        · exact .single (.grantTx s q hq (by assumption))
        · exact .refl
      | rx =>
        split
        · have e : withHostFaultsOf s (grantRx q (withHostFaultsOf edge s)) = grantRx q s :=
            startRx_withHostFaultsOf edge
              { s with locks := { setRequest .rx q false s.locks with rxLock := true } } _ _ _ _
          rw [e]
          exact .single (.grantRx s q hq (by assumption))
        · exact .refl
  · cases h
  · cases h

/-- Everything a start that its cycle turns away can do. -/
theorem turnedAway_chain (i : Instr) (s t : State) (h : turnedAway i s = .next t) :
    ReflTransGen (AtomicStep edge) s t := by
  unfold turnedAway at h
  split at h
  · obtain ⟨hq, h⟩ := withSlot_eq_next.1 h
    injection h with h; subst h; exact .single (.refuse s .tx _ hq)
  · obtain ⟨hq, h⟩ := withSlot_eq_next.1 h
    injection h with h; subst h; exact .single (.refuse s .rx _ hq)
  · injection h with h; exact chain_of_eq h.symm

/-- Everything one operation of a cycle can do: what it can do alone, or a command start that tests the
fault bits of the cycle's beginning. -/
theorem Cycle.exec_anyChain (c : Cycle) (i : Instr) (s t : State)
    (hm : ∀ l, i = .reset l → mayReset) (h : c.exec i s = .next t) :
    ReflTransGen (AnyStep (some c.edge) mayReset) s t := by
  unfold Cycle.exec at h
  split at h
  · obtain ⟨_, h⟩ := withSlot_eq_next.1 h
    injection h with h; subst h; exact .refl
  · split at h
    · rename_i hi
      split at h
      · exact execOnEdge_anyChain c.edge i s t hi h
      · exact Relation.ReflTransGen.mono (fun _ _ => .atomic) _ _ (turnedAway_chain i s t h)
    · rename_i hi
      exact Sys2Proof.Machine.exec_anyChain i s t (.inr (Bool.eq_false_iff.2 hi)) hm h

/-- The requests that `blockedRequests` lists are blocked. -/
theorem blocked_of_mem_blockedRequests {p : Dir × Nat} {s : State} (h : p ∈ blockedRequests s) :
    blocked p.1 p.2 s = true := by
  simp only [blockedRequests, List.mem_flatMap, List.mem_map, List.mem_filter] at h
  obtain ⟨_, _, _, ⟨_, h⟩, rfl⟩ := h
  exact h

/-- A tick is the end of a cycle without operations. -/
theorem chain_clkTick (s : State) : ReflTransGen (AtomicStep edge) s (clkTick s) :=
  .single (.tick s _ _ fun _ => blocked_of_mem_blockedRequests)

/-- Everything the operations of a cycle and its end can do. -/
theorem execCycle_anyChain (is : List Instr) (c : Cycle) (s t : State)
    (hw : ∀ p ∈ c.waited, blocked p.1 p.2 s = true) (hm : ∀ l, .reset l ∈ is → mayReset)
    (h : execCycle is c s = .next t) : ReflTransGen (AnyStep (some c.edge) mayReset) s t := by
  induction is generalizing c s with
  | nil => injection h with h; exact h ▸ .single (.atomic (.tick s c.waited c.timeouts hw))
  | cons i is ih =>
    simp only [execCycle] at h
    split at h
    · rename_i u hu
      refine (c.exec_anyChain i s u (fun l e => hm l (e ▸ List.mem_cons_self)) hu).trans
        (ih (c.after i s u) u (fun p hp => (List.mem_filter.1 hp).2)
          (fun l hl => hm l (List.mem_cons_of_mem _ hl)) h)
    · cases h
    · cases h

/-- Only the internal step RESET decodes to a reset. -/
theorem decode_eq_reset {c : Params} {pw : PortWord} {l : ResetLines}
    (h : decode c pw = .ok (.reset l)) : pw = .internalStep (.reset l) := by
  cases pw with
  | internalStep i =>
    cases i <;> simp only [decode, decodeInternal] at h
    case reset => cases h; rfl
    all_goals first | cases h | (split at h <;> cases h)
  | txStep v => simp only [decode, decodeTxStep] at h; split at h <;> cases h
  | rxStep v => simp only [decode, decodeRxStep] at h; split at h <;> cases h
  | txTypeByte => cases h
  | noPort => cases h
  | _ => simp only [decode] at h; repeat' (first | cases h | split at h)

theorem decodeAll_reset_mem {c : Params} {pws : List PortWord} {is : List Instr} {l : ResetLines}
    (h : decodeAll c pws = .ok is) (hl : .reset l ∈ is) : .internalStep (.reset l) ∈ pws := by
  induction pws generalizing is with
  | nil => injection h with h; subst h; cases hl
  | cons pw pws ih =>
    simp only [decodeAll] at h
    split at h
    · split at h
      · exact List.mem_cons_of_mem _ (ih h hl)
      · cases h
    · rename_i i hi
      split at h
      · cases h
      · rename_i js hjs
        injection h with h; subst h
        rcases List.mem_cons.1 hl with e | hl
        · exact List.mem_cons.2 (.inl (decode_eq_reset (e ▸ hi)).symm)
        · exact List.mem_cons_of_mem _ (ih hjs hl)

/-- Everything a step of the machine can do: it resets only where its entry shows a reset, and a cycle
begins with the fault bits of the step. -/
theorem step_anyChain (s t : State) (h : step s = .next t) :
    ∃ edge : Option State, (∀ e ∈ edge, e.faults = s.faults ∧ e.views = s.views) ∧
      ReflTransGen (AnyStep edge (∃ e ∈ s.env.script.head?, e.resets = true)) s t := by
  unfold step runNext at h
  split at h
  · injection h with h; exact ⟨none, by simp, h ▸ .refl⟩
  · rename_i e rest hs
    rw [hs]
    simp only [List.head?_cons, Option.mem_def, Option.some.injEq, exists_eq_left']
    generalize hm : (e.resets = true) = mayReset
    have first (edge : Option State) :
        ReflTransGen (AnyStep edge mayReset) s { s with env := { s.env with script := rest } } :=
      .single (.atomic (.inputs s rest s.env.strobes s.env.sinkReady))
    have hf : ({ s with env := { s.env with script := rest } } : State).faults = s.faults ∧
        ({ s with env := { s.env with script := rest } } : State).views = s.views := ⟨rfl, rfl⟩
    generalize ({ s with env := { s.env with script := rest } } : State) = u at h first hf
    have outside (hc : ReflTransGen (AnyStep none mayReset) u t) : ∃ edge : Option State,
        (∀ e, edge = some e → e.faults = s.faults ∧ e.views = s.views) ∧
          ReflTransGen (AnyStep edge mayReset) s t :=
      ⟨none, by simp, (first none).trans hc⟩
    unfold runEvent at h
    split at h
    · split at h
      · rename_i i hi
        exact outside (exec_anyChain _ _ _ (.inl rfl)
          (fun l e => by subst e; rw [← hm, decode_eq_reset hi]; rfl) h)
      · split at h
        · injection h with h; exact outside (h ▸ .refl)
        · cases h
    · split at h
      · rename_i is his
        unfold runCycle at h
        split at h
        · rename_i v hv
          injection h with h; subst h
          refine ⟨some u, by simpa using hf, (first _).trans ?_⟩
          have a : ReflTransGen (AnyStep (some u) mayReset) u
              (withStrobes (is.flatMap strobesOf) u) :=
            .single (.atomic (.inputs u u.env.script _ u.env.sinkReady))
          have b : ReflTransGen (AnyStep (some u) mayReset) v (withStrobes [] v) :=
            .single (.atomic (.inputs v v.env.script _ v.env.sinkReady))
          refine (a.trans (execCycle_anyChain _ (Cycle.begin u) _ _
            (fun p hp => blocked_of_mem_blockedRequests hp) (fun l hl => ?_) hv)).trans b
          rw [← hm]
          exact List.any_eq_true.2 ⟨_, decodeAll_reset_mem his hl, rfl⟩
        · cases h
        · cases h
      · cases h
    · injection h with h; subst h; exact outside
        (Relation.ReflTransGen.mono (fun _ _ => .atomic) _ _ (chain_clkTick u))
    · injection h with h; subst h
      exact outside (.single (.atomic (.inputs u u.env.script u.env.strobes _)))
    · obtain ⟨_, h⟩ := withSlot_eq_next.1 h
      injection h with h; subst h; exact outside (.single (.atomic (.payload u _ _)))

/-- A property that every atomic step keeps is kept by every operation but a bare `PUSH` and `RESET`. -/
theorem exec_keeps (P : State → Prop) (keeps : ∀ s t, AtomicStep none s t → P s → P t) (i : Instr)
    (s t : State) (hi : ∀ b, i ≠ .push b) (hr : ∀ l, i ≠ .reset l) (hs : P s)
    (h : exec i s = .next t) : P t := by
  have := exec_chain i s t hi hr h
  clear h
  induction this with
  | refl => exact hs
  | tail _ hab ih => exact keeps _ _ hab ih

/-- A property that every atomic step, a bare push and a reset keep is kept by every step of the
machine. -/
theorem step_keeps (P : State → Prop) (keeps : ∀ edge s t, AnyStep edge True s t → P s → P t)
    (s t : State) (hs : P s) (h : step s = .next t) : P t := by
  obtain ⟨edge, _, this⟩ := step_anyChain s t h
  clear h
  induction this with
  | refl => exact hs
  | tail _ hab ih =>
    refine keeps edge _ _ ?_ ih
    cases hab with
    | atomic h => exact .atomic h
    | push b h1 h2 => exact .push _ b h1 h2
    | reset _ h => exact .reset _ trivial h

end Sys2Proof.Machine
end

