-- ==== Sys2Proof/Tests/Slice0.lean ====
section
/-! SUPPORT. The author's own tests: the smoke test of WellFormed, written-out words, single steps taken
from the worked examples of the spec, and for every statement with hypotheses a state and operands that
meet them all. -/

namespace Sys2Proof.Tests

open Sys2Proof Sys2Proof.Machine

/- One theorem after the other: elaborated side by side, the package as one text takes more threads than
the memory limit of the check has room for. -/
set_option Elab.async false

/-! ### States to test on -/

/-- The reset state with the bytes `bs` ingested and every view caught up; `cseq` is the count after each
of them. -/
def filled (bs : List Byte) (cseq : List Nat) : State :=
  let s := State.reset
  { s with
    w :=
      { ring := (List.range bs.length).zip bs
        wptr := bs.length
        lastByte := bs.getLastD 0xC0#8
        closed := cseq.getLastD 0 }
    views := { s.views with wptrR := bs.length, closedR := cseq.getLastD 0 }
    ghost := { s.ghost with
      pushes := bs.length, iw := bs.length, ic := bs.length, cseq := cseq, pushTrace := bs } }

/-- One SLIP packet, `[0xC0, 0x41, 0xC0]`, in the queue. -/
def onePacket : State := filled [0xC0#8, 0x41#8, 0xC0#8] [0, 0, 0, 1]

/-- A queue with every cell used. -/
def fullQueue : State := filled (List.replicate 16 0x41#8) (List.replicate 17 0)

/-- The same state with other entries on the schedule. -/
def scheduled (es : List Event) (s : State) : State := { s with env := { s.env with script := es } }

/-- A decode call running in state `st`, with a byte at the head of the queue. -/
def decoding (st : RxState) (m : Mode) (rcv : Nat) (ty : Option Byte) (head : Byte) : State :=
  let s := filled [head] [0, 1]
  { s with rx := { s.rx with
      state := st, mode := m, cap := 4, rcv := rcv, first := m == .slipmux && ty.isNone,
      typeValid := ty.isSome, typeReg := ty.getD 0#8 } }

/-- A decode call running on a queue that looks empty, with `count` packets counted. -/
def drained (st : RxState) (m : Mode) (count : Nat) : State :=
  let s := State.reset
  { s with
    views := { s.views with closedR := count }
    rx := { s.rx with state := st, mode := m, cap := 4, rcv := 1 } }

/-- An encode call running in state `st`, at the first byte of the payload `[p]`. -/
def encoding (st : TxState) (m : Mode) (ty p : Byte) : State :=
  let s := State.reset
  { s with
    tx := { s.tx with
      state := st, mode := m, type := ty, chk := m == .slipmux && ty == 0xA9#8, len := 1 }
    env := { s.env with
      txCmd := [{ type := ty, len := 1, payload := [p] }, { type := 0#8, len := 0, payload := [] }] } }

/-- Slot 1 has a SLIPMUX request waiting in both directions. -/
def requesting : State :=
  let s := State.reset
  { s with locks := { s.locks with txReq := [false, true], rxReq := [false, true] } }

/-- Slot 1 waits, in both directions, for a lock that is held, and has waited `n` ticks. -/
def waiting (n : Nat) : State :=
  let s := requesting
  { s with locks := { s.locks with txLock := true, rxLock := true, txWait := [0, n], rxWait := [0, 0] } }

/-- Every slot has a SLIPMUX request waiting in both directions. -/
def contended : State :=
  let s := State.reset
  { s with locks := { s.locks with txReq := [true, true], rxReq := [true, true] } }

/-- The state of LK9 (spec/95_test_vectors.md): slot 0 has waited out its time behind a SLIPMUX decode of
slot 1 that is about to end. -/
def lastTick : State :=
  let s := drained .drain .slipmux 0
  { s with
    rx := { s.rx with owner := 1 }
    locks := { s.locks with rxLock := true, rxReq := [true, false], rxWait := [1, 0] } }

/-- The same behind a SLIPMUX encode. -/
def txLastTick : State :=
  let s := encoding .trail .slipmux 0x0A#8 0x41#8
  { s with
    tx := { s.tx with owner := 1 }
    locks := { s.locks with txLock := true, txReq := [true, false], txWait := [1, 0] } }

/-- The host domain has recorded a fault. -/
def hostFaulted : State :=
  { State.reset with faults := { wfault := false, hfault := .countNotZeroOnEmpty } }

/-- The host domain has learned of a write-domain fault. -/
def hostInformed : State :=
  { State.reset with
    faults := { wfault := true, hfault := .none }
    views := { Views.reset with wfaultH := true } }

/-- The write domain has learned of a host-domain fault. -/
def writeInformed : State :=
  { hostFaulted with views := { Views.reset with hfaultW := true } }

/-- What an outcome's next state holds. -/
def nextHas (o : Host.Outcome State Fault Refusal) (p : State → Bool) : Bool :=
  match o with
  | .next t => p t
  | .fault _ => false
  | .refused _ => false

/-! ### WellFormed refuses an ill-formed term of each kind -/

theorem smoke_slot : (Instr.slipDec 2 8).wf Config.sample = false := by decide
theorem smoke_capacity : (Instr.slipDec 0 256).wf Config.sample = false := by decide
theorem smoke_smxDec_capacity :
    (Instr.smxDec 0 256 ⟨false, 0#8, false⟩).wf Config.sample = false := by decide
theorem smoke_length : (Instr.slipEnc 0 256 []).wf Config.sample = false := by decide
theorem smoke_smxEnc_length : (Instr.smxEnc 0 0x0A#8 256 []).wf Config.sample = false := by decide
theorem smoke_grant_slot : (Instr.lockGrant .tx 2).wf Config.sample = false := by decide
theorem smoke_timeout_slot : (Instr.lockTimeout .rx 2).wf Config.sample = false := by decide
theorem smoke_ingestOther : (Instr.ingestOther 0xC0#8).wf Config.sample = false := by decide
theorem smoke_drainOther_terminator :
    (Instr.drainOther 0xC0#8).wf Config.sample = false := by decide
theorem smoke_drainOther_escape : (Instr.drainOther 0xDB#8).wf Config.sample = false := by decide
theorem smoke_escOther : (Instr.escOther 0xDC#8).wf Config.sample = false := by decide
theorem smoke_escOther_escape : (Instr.escOther 0xDD#8).wf Config.sample = false := by decide
theorem smoke_stuffOther : (Instr.stuffOther 0xC0#8).wf Config.sample = false := by decide
theorem smoke_typeChecksum : (Instr.typeChecksum .tx 0x0A#8).wf Config.sample = false := by decide
theorem smoke_typePlain : (Instr.typePlain .rx 0xA9#8).wf Config.sample = false := by decide
theorem smoke_params : ({ Config.sample with cw := 4 } : Params).wf = false := by decide
theorem smoke_params_chkType :
    ({ Config.sample with chkType := 0xC0#8 } : Params).wf = false := by decide

/-! ### Written-out words (spec/30_encoding.md R91, R100, R101, spec/10_state.md R24, R104) -/

theorem word_ingest : decode Config.sample (.ingestPort true 0x41#8) = .ok (.ingest 0x41#8) := rfl
theorem word_slipEnc :
    decode Config.sample (.txCommand 0 0b0#1 0#8 1 [0x41#8]) = .ok (.slipEnc 0 1 [0x41#8]) := rfl
theorem word_smxEnc :
    decode Config.sample (.txCommand 1 0b1#1 0x0A#8 1 [0x41#8]) =
      .ok (.smxEnc 1 0x0A#8 1 [0x41#8]) := rfl
theorem word_slipDec :
    decode Config.sample (.rxCommand 1 0b0#1 8 ⟨false, 0#8, false⟩) = .ok (.slipDec 1 8) := rfl
theorem word_smxDec :
    decode Config.sample (.rxCommand 1 0b1#1 8 ⟨true, 0x0A#8, true⟩) =
      .ok (.smxDec 1 8 ⟨true, 0x0A#8, true⟩) := rfl
theorem word_ingestTerminator :
    decode Config.sample (.ingestByte 0b11000000#8) = .ok .ingestTerminator := rfl
theorem word_ingestOther :
    decode Config.sample (.ingestByte 0b11011011#8) = .ok (.ingestOther 0xDB#8) := rfl
theorem word_drainTerminator :
    decode Config.sample (.rxDrainByte 0b11000000#8) = .ok .drainTerminator := rfl
theorem word_drainEscape :
    decode Config.sample (.rxDrainByte 0b11011011#8) = .ok .drainEscape := rfl
theorem word_drainOther :
    decode Config.sample (.rxDrainByte 0b11011100#8) = .ok (.drainOther 0xDC#8) := rfl
theorem word_escEscapedTerminator :
    decode Config.sample (.rxEscByte 0b11011100#8) = .ok .escEscapedTerminator := rfl
theorem word_escEscapedEscape :
    decode Config.sample (.rxEscByte 0b11011101#8) = .ok .escEscapedEscape := rfl
theorem word_escOther :
    decode Config.sample (.rxEscByte 0b11000000#8) = .ok (.escOther 0xC0#8) := rfl
theorem word_stuffTerminator :
    decode Config.sample (.txPayloadByte 0b11000000#8) = .ok .stuffTerminator := rfl
theorem word_stuffEscape :
    decode Config.sample (.txPayloadByte 0b11011011#8) = .ok .stuffEscape := rfl
theorem word_stuffOther :
    decode Config.sample (.txPayloadByte 0b11011101#8) = .ok (.stuffOther 0xDD#8) := rfl
theorem word_typeRaw :
    decode Config.sample (.txTypeByte 0b11000000#8) = .ok (.typeRaw 0xC0#8) := rfl
theorem word_typeChecksum :
    decode Config.sample (.typeClass .rx 0xA9#8) = .ok (.typeChecksum .rx 0xA9#8) := rfl
theorem word_typePlain :
    decode Config.sample (.typeClass .tx 0x0A#8) = .ok (.typePlain .tx 0x0A#8) := rfl
theorem word_tLead : decode Config.sample (.txStep 0b0001#4) = .ok .tLead := rfl
theorem word_tType : decode Config.sample (.txStep 0b0010#4) = .ok .tType := rfl
theorem word_tPay : decode Config.sample (.txStep 0b0011#4) = .ok .tPay := rfl
theorem word_tPay2 : decode Config.sample (.txStep 0b0100#4) = .ok .tPay2 := rfl
theorem word_tClo : decode Config.sample (.txStep 0b0101#4) = .ok .tClo := rfl
theorem word_tClo2 : decode Config.sample (.txStep 0b0110#4) = .ok .tClo2 := rfl
theorem word_tChi : decode Config.sample (.txStep 0b0111#4) = .ok .tChi := rfl
theorem word_tChi2 : decode Config.sample (.txStep 0b1000#4) = .ok .tChi2 := rfl
theorem word_tTrail : decode Config.sample (.txStep 0b1001#4) = .ok .tTrail := rfl
theorem word_rDrain : decode Config.sample (.rxStep 0b01#2) = .ok .rDrain := rfl
theorem word_rEsc : decode Config.sample (.rxStep 0b10#2) = .ok .rEsc := rfl
theorem word_push :
    decode Config.sample (.internalStep (.push 0x41#8)) = .ok (.push 0x41#8) := rfl
theorem word_pop : decode Config.sample (.internalStep .pop) = .ok .pop := rfl
theorem word_synW2r :
    decode Config.sample (.internalStep (.synW2r 3 2)) = .ok (.synW2r 3 2) := rfl
theorem word_synR2w : decode Config.sample (.internalStep (.synR2w 3)) = .ok (.synR2w 3) := rfl
theorem word_synFault :
    decode Config.sample (.internalStep (.synFault .host)) = .ok (.synFault .host) := rfl
theorem word_lockGrant :
    decode Config.sample (.internalStep (.lockGrant .tx 1)) = .ok (.lockGrant .tx 1) := rfl
theorem word_lockRelease :
    decode Config.sample (.internalStep (.lockRelease .rx)) = .ok (.lockRelease .rx) := rfl
theorem word_lockTimeout :
    decode Config.sample (.internalStep (.lockTimeout .tx 0)) = .ok (.lockTimeout .tx 0) := rfl
theorem word_reset :
    decode Config.sample (.internalStep (.reset .both)) = .ok (.reset .both) := rfl
theorem word_table_tTrail : decodeTableWord 8 0x09 = some .tTrail := rfl
theorem word_table_drainEscape : decodeTableWord 8 0xDB = some .drainEscape := rfl

/-! ### Single steps -/

/-- R121's worked example: `[0xC0, 0x41, 0xC0, 0xC0]` counts only its third byte. -/
theorem test_feed_counts_once :
    nextHas (execAll (feedProgram [0xC0#8, 0x41#8, 0xC0#8, 0xC0#8]) State.reset) (fun t =>
      t.w.wptr == 4 && t.w.closed == 1 && t.w.lastByte == 0xC0#8) = true := by decide +kernel

/-- R120: the byte presented to a full queue is not stored. -/
theorem test_ingest_full :
    nextHas (exec (.ingest 0x42#8) fullQueue) (fun t =>
      t.faults.wfault && t.w.wptr == 16 && t.ghost.pushes == 16) = true := by decide +kernel

/-- R65: a pop takes the byte at `rptr`. -/
theorem test_pop :
    nextHas (exec .pop onePacket) (fun t =>
      t.rx.rptr == 1 && t.ghost.popTrace == [0xC0#8]) = true := by decide +kernel

/-- R223(b): while a call holds the receive lock a bare pop is no step. -/
theorem test_pop_locked :
    nextHas (exec .pop { onePacket with locks := { onePacket.locks with rxLock := true } }) (fun t =>
      t.rx.rptr == 0) = true := by decide +kernel

/-- R165: the terminator after a stored byte completes the call. -/
theorem test_drain_completes :
    nextHas (exec .rDrain (decoding .drain .slip 1 none 0xC0#8)) (fun t =>
      t.rx.resLen == 1 && t.rx.resComplete && t.rx.consumed == 1 && t.rx.done) = true := by
  decide +kernel

/-- R201, R206(c): a two-byte body of the checksum Type is reported with length 0. -/
theorem test_drain_strips :
    nextHas (exec .drainTerminator (decoding .drain .slipmux 2 (some 0xA9#8) 0xC0#8)) (fun t =>
      t.rx.resLen == 0 && t.rx.resComplete && t.rx.resType == 0xA9#8) = true := by decide +kernel

/-- R206(b): a one-byte body of the checksum Type is not stripped. -/
theorem test_drain_one_byte :
    nextHas (exec .drainTerminator (decoding .drain .slipmux 1 (some 0xA9#8) 0xC0#8)) (fun t =>
      t.rx.resLen == 1) = true := by decide +kernel

/-- R199: a terminator right after the Type discards the Type. -/
theorem test_drain_noise :
    nextHas (exec .rDrain (decoding .drain .slipmux 0 (some 0x0A#8) 0xC0#8)) (fun t =>
      !t.rx.typeValid && t.rx.first && t.rx.consumed == 0) = true := by decide +kernel

/-- R141, R166: the follower `0xC0` is delivered as data. -/
theorem test_esc_violation :
    nextHas (exec .rEsc (decoding .esc .slip 0 none 0xC0#8)) (fun t =>
      t.ghost.dstTrace == [(0, 0xC0#8)] && t.rx.state == .drain) = true := by decide +kernel

/-- R162: an empty queue with a count is fatal. -/
theorem test_drain_fatal :
    nextHas (exec .rDrain (drained .drain .slip 1)) (fun t =>
      t.faults.hfault == .countNotZeroOnEmpty && t.rx.state == .drain && !t.rx.done) = true := by
  decide +kernel

/-- R166: an empty queue after an escape prefix ends the call, whatever the count. -/
theorem test_esc_abort :
    nextHas (exec .rEsc (drained .esc .slip 1)) (fun t =>
      t.faults.hfault == .none && t.rx.done && !t.rx.resComplete && t.rx.resLen == 1) = true := by
  decide +kernel

/-- R153: a payload `0xC0` waits as `0xDC`. -/
theorem test_tPay_stuffs :
    nextHas (exec .tPay (encoding .pay .slip 0#8 0xC0#8)) (fun t =>
      t.ghost.sinkTrace == [0xDB#8] && t.tx.hold == 0xDC#8 && t.tx.idx == 0) = true := by
  decide +kernel

/-- R150's worked example, as far as its stuffed byte: `0xDB` becomes `0xDB, 0xDD`. -/
theorem test_stuffEscape :
    nextHas (exec .stuffEscape (encoding .pay .slip 0#8 0xDB#8)) (fun t =>
      t.ghost.sinkTrace == [0xDB#8, 0xDD#8] && t.tx.idx == 1 && t.tx.state == .trail) = true := by
  decide +kernel

/-- R183: the Type `0xC0` is emitted raw. -/
theorem test_tType_raw :
    nextHas (exec .tType (encoding .type .slipmux 0xC0#8 0x41#8)) (fun t =>
      t.ghost.sinkTrace == [0xC0#8] && t.tx.state == .pay) = true := by decide +kernel

/-- R155, R220: the closing terminator of a SLIPMUX call frees the lock. -/
theorem test_tTrail_releases :
    nextHas (exec .tTrail (let s := encoding .trail .slipmux 0x0A#8 0x41#8
      { s with locks := { s.locks with txLock := true } })) (fun t =>
      !t.locks.txLock && t.tx.done && t.tx.state == .idle) = true := by decide +kernel

/-- R197: with no packet visible the granted call returns at once and frees the lock. -/
theorem test_grant_early_return :
    nextHas (exec (.lockGrant .rx 1) requesting) (fun t =>
      t.rx.done && !t.locks.rxLock && t.rx.owner == 1 && t.ghost.grants == [(.rx, 1)]) = true := by
  decide +kernel

/-- R224: a plain command posted while a request waits is refused, and nothing starts. -/
theorem test_plain_refused :
    nextHas (exec (.slipDec 0 8) requesting) (fun t =>
      t.rx == requesting.rx && t.ghost.refusedPosts == [(.rx, 0)]) = true := by decide +kernel

/-- R221: a wait of `LOCK_TIMEOUT` ticks is fatal. -/
theorem test_tick_timeout :
    nextHas (step (scheduled [.tick] (waiting 1))) (fun t =>
      t.faults.hfault == .txLockTimeout) = true := by decide +kernel

/-- R218: before that the counter of the blocked request runs. -/
theorem test_tick_counts :
    nextHas (step (scheduled [.tick] (waiting 0))) (fun t =>
      t.locks.txWait == [0, 1] && t.faults.hfault == .none) = true := by decide +kernel

/-- LK9, R221, R246(d): a grant in the cycle in which the wait runs out wins, even over the timeout. -/
theorem test_grant_wins :
    nextHas (step (scheduled [.cycle [.internalStep (.lockTimeout .rx 0), .rxStep 1#2,
      .internalStep (.lockGrant .rx 0)]] lastTick)) (fun t =>
      t.faults.hfault == .none && t.ghost.grants == [(.rx, 0)]) = true := by decide +kernel

/-- R221: without the grant the wait ends in the fault at the end of the cycle. -/
theorem test_wait_runs_out_in_a_cycle :
    nextHas (step (scheduled [.cycle [.internalStep (.synFault .host)]] lastTick)) (fun t =>
      t.faults.hfault == .rxLockTimeout) = true := by decide +kernel

/-- R219, R287: one start of a direction in a cycle, though the first call returns at once. -/
theorem test_one_grant_per_cycle :
    nextHas (step (scheduled [.cycle [.internalStep (.lockGrant .rx 0),
      .internalStep (.lockGrant .rx 1), .internalStep (.lockGrant .tx 1)]] contended)) (fun t =>
      t.ghost.grants == [(.rx, 0), (.tx, 1)] && t.locks.rxReq == [false, true]) = true := by
  decide +kernel

/-- R224, C10: a plain command in a cycle in which a request waits is refused, granted or not. -/
theorem test_plain_beside_a_grant :
    nextHas (step (scheduled [.cycle [.internalStep (.lockGrant .rx 1),
      .rxCommand 0 0#1 8 ⟨false, 0#8, false⟩]] requesting)) (fun t =>
      t.ghost.refusedPosts == [(.rx, 0)] && t.ghost.grants == [(.rx, 1)]) = true := by decide +kernel

/-- R74: a choice that would move a view back is none. -/
theorem test_syn_inadmissible :
    nextHas (exec (.synW2r 2 2) onePacket) (fun t => t.views.wptrR == 3) = true := by
  decide +kernel

/-- R125, U25: without `in_valid` nothing is presented, alone or beside another port in the cycle. -/
theorem test_no_byte :
    nextHas (step (scheduled [.op (.ingestPort false 0x41#8)] onePacket)) (fun t =>
      t.w == onePacket.w && t.faults == onePacket.faults) = true ∧
    nextHas (step (scheduled [.cycle [.ingestPort false 0x41#8, .ingestPort true 0xC0#8]] onePacket))
      (fun t => t.w.wptr == 4) = true := by decide +kernel

/-- R246(e): an encode that starts in the edge in which the decode engine raises is started; one that
meets the fault at the beginning of the cycle is not. -/
theorem test_start_on_the_edge :
    nextHas (step (scheduled [.cycle [.rxStep 1#2, .txCommand 0 0#1 0#8 1 [0x41#8]]]
      (drained .drain .slip 1))) (fun t =>
      t.faults.hfault == .countNotZeroOnEmpty && t.tx.state == .lead) = true ∧
    nextHas (step (scheduled [.cycle [.txCommand 0 0#1 0#8 1 [0x41#8]]] hostFaulted)) (fun t =>
      t.tx.state == .idle) = true := by decide +kernel

/-- R237: `fault_code` shows `hfault`, else the write domain's fault the host domain has learned of. -/
theorem test_faultCode :
    faultCode hostFaulted = 2#3 ∧ faultCode hostInformed = 1#3 ∧ faultCode writeInformed = 2#3 := by
  decide +kernel

/-- The host's placement of a table word runs exactly that word's step. -/
theorem test_withFetchWord :
    nextHas (step (State.reset.withFetchWord 8 0x09)) (fun t =>
      t.ghost.sinkTrace == [0xC0#8] && t.tx.state == .idle && t.tx.done) = true := by decide +kernel

/-! ### Witnesses: for each statement with hypotheses, what meets them all -/

/-- A check of `QueueInv` by evaluation. -/
def queueCheck (s : State) : Bool :=
  s.cfg.wf && s.w.wptr == s.ghost.pushes % 2 ^ (s.cfg.aw + 1)
    && s.rx.rptr == s.ghost.pops % 2 ^ (s.cfg.aw + 1)
    && s.views.wptrR == s.ghost.iw % 2 ^ (s.cfg.aw + 1)
    && s.views.rptrW == s.ghost.ir % 2 ^ (s.cfg.aw + 1)
    && s.w.closed == s.ghost.cseq.getLastD 0 % 2 ^ s.cfg.cw
    && s.views.closedR == s.ghost.cseq.getD s.ghost.ic 0 % 2 ^ s.cfg.cw
    && decide (s.ghost.ic ≤ s.ghost.iw) && decide (s.ghost.iw ≤ s.ghost.pushes)
    && decide (s.ghost.ir ≤ s.ghost.pops) && decide (s.ghost.pops ≤ s.ghost.iw)
    && decide (s.ghost.pushes ≤ s.ghost.ir + s.cfg.depth)
    && s.ghost.cseq.length == s.ghost.pushes + 1 && s.ghost.cseq.head? == some 0
    && decide (s.ghost.cseq.IsChain (fun a b => b = a ∨ b = a + 1))
    && s.ghost.pushTrace.length == s.ghost.pushes
    && s.ghost.popTrace == s.ghost.pushTrace.take s.ghost.pops
    && (List.range s.ghost.pushes).all fun k =>
      decide (k < s.ghost.pops) ||
        Memory.read s.w.ring (ringIndex s.cfg k) == s.ghost.pushTrace[k]?

theorem queueInv_of_check (s : State) (h : queueCheck s = true) : QueueInv s := by
  simp only [queueCheck, Bool.and_eq_true, beq_iff_eq, decide_eq_true_eq, List.all_eq_true,
    List.mem_range, Bool.or_eq_true] at h
  obtain ⟨⟨⟨⟨⟨⟨⟨⟨⟨⟨⟨⟨⟨⟨⟨⟨⟨h1, h2⟩, h3⟩, h4⟩, h5⟩, h6⟩, h7⟩, h8⟩, h9⟩, h10⟩, h11⟩, h12⟩, h13⟩,
    h14⟩, h15⟩, h16⟩, h17⟩, h18⟩ := h
  exact ⟨h1, h2, h3, h4, h5, h6, h7, h8, h9, h10, h11, h12, h13, h14, h15, h16, h17,
    fun k hk hk' => (h18 k hk').resolve_left (by omega)⟩

theorem reset_queueInv : QueueInv State.reset := queueInv_of_check _ (by decide +kernel)

theorem onePacket_queueInv : QueueInv onePacket := queueInv_of_check _ (by decide +kernel)

theorem fullQueue_queueInv : QueueInv fullQueue := queueInv_of_check _ (by decide +kernel)

theorem reset_slotInv : SlotInv State.reset := by constructor <;> decide +kernel

theorem onePacket_slotInv : SlotInv onePacket := by constructor <;> decide +kernel

theorem reset_mayStart (d : Dir) : plainMayStart d State.reset := by
  refine ⟨?_, ?_, ?_, ?_, ?_, rfl, rfl⟩ <;> cases d <;> first
    | decide +kernel
    | (intro q h; cases h)

theorem onePacket_mayStart (d : Dir) : plainMayStart d onePacket := by
  refine ⟨?_, ?_, ?_, ?_, ?_, rfl, rfl⟩ <;> cases d <;> first
    | decide +kernel
    | (intro q h; cases h)

theorem witness_StepRunsTheDecodedInstruction :
    (scheduled [.op (.rxStep 1#2)] onePacket).env.script = .op (.rxStep 1#2) :: [] ∧
    decode (scheduled [.op (.rxStep 1#2)] onePacket).cfg (.rxStep 1#2) = .ok .rDrain :=
  ⟨rfl, rfl⟩

theorem witness_IdleScheduleAndUndecodableWords :
    State.reset.env.script = [] ∧
    (scheduled [.op (.ingestPort false 0#8)] onePacket).env.script =
      .op (.ingestPort false 0#8) :: [] ∧
    (10#4 : BitVec 4) ≤ 10#4 ∧ (10#4 : BitVec 4) ≤ 15#4 ∧
    (scheduled [.cycle [.txStep 15#4, .rxStep 1#2]] onePacket).env.script =
      .cycle (.txStep 15#4 :: [.rxStep 1#2]) :: [] ∧
    onePacket.cfg.nreq ≤ 2 ∧ 1 < onePacket.cfg.nreq ∧ 2 ^ onePacket.cfg.lw ≤ 256 ∧
    (scheduled [.op (.noPort 16 0)] onePacket).env.script = .op (.noPort 16 0) :: [] :=
  ⟨rfl, rfl, by decide, by decide, rfl, by decide, by decide, by decide, rfl⟩

theorem witness_DecodeOfEncodeIsIdentity :
    (Instr.slipDec 1 255).wf Config.sample = true ∧
    (Instr.typeChecksum .tx 0xA9#8).wf Config.sample = true := by decide

theorem witness_DecodeFollowsTheOpcodeTable :
    decode Config.sample (.rxDrainByte 0xDC#8) = .ok (.drainOther 0xDC#8) ∧
    (RowPattern.bits 0x00 0x00).anyOther = true ∧
    (RowPattern.bits 0x00 0x00).holds Config.sample (PortWord.rxDrainByte 0xDC#8).bits = true ∧
    decode Config.sample (.rxDrainByte 0xDB#8) = .ok .drainEscape :=
  ⟨rfl, rfl, rfl, rfl⟩

theorem witness_ResetReturnsToTheResetState :
    onePacket.env.strobes = [] ∧ (withStrobes [.inValid] onePacket).env.strobes ≠ [] :=
  ⟨rfl, by decide⟩

theorem witness_IngestStoresAndCounts :
    ingestsOf 0xC0#8 .ingestTerminator ∧ ingestsOf 0x41#8 (.ingestOther 0x41#8) ∧
    onePacket.faults.wfault = false ∧ onePacket.views.hfaultW = false ∧
    fullW onePacket = false :=
  ⟨.inr (.inl ⟨rfl, rfl⟩), .inr (.inr ⟨by decide, rfl⟩), rfl, rfl, by decide +kernel⟩

theorem witness_IngestWhenFullOrFaulted :
    ingestsOf 0xC0#8 (.ingest 0xC0#8) ∧ fullQueue.faults.wfault = false ∧
    fullQueue.views.hfaultW = false ∧ fullW fullQueue = true ∧
    hostInformed.faults.wfault = true ∧ writeInformed.views.hfaultW = true :=
  ⟨.inl rfl, rfl, rfl, by decide +kernel, rfl, rfl⟩

theorem witness_CountingLaw :
    QueueInv onePacket ∧ writeHalted onePacket = false ∧
    onePacket.ghost.pushes + (List.replicate 13 (0xC0#8 : Byte)).length ≤
      onePacket.ghost.ir + onePacket.cfg.depth :=
  ⟨onePacket_queueInv, rfl, by decide +kernel⟩

theorem witness_PushAndPopMoveOneByte :
    (onePacket.faults.wfault = false ∧ onePacket.views.hfaultW = false ∧
      fullW onePacket = false) ∧ fullW fullQueue = true ∧
    (hostHalted onePacket = false ∧ onePacket.locks.rxLock = false ∧ emptyR onePacket = false) ∧
    emptyR State.reset = true ∧ (waiting 0).locks.rxLock = true := by
  decide +kernel

theorem witness_StepKeepsQueueInv :
    QueueInv (scheduled [.op (.internalStep .pop)] onePacket) ∧
    ∃ t, step (scheduled [.op (.internalStep .pop)] onePacket) = .next t :=
  ⟨queueInv_of_check _ (by decide +kernel), _, rfl⟩

theorem witness_StepKeepsRingInv :
    RingInv (scheduled [.op (.ingestByte 0xC0#8)] onePacket) ∧
    ∃ t, step (scheduled [.op (.ingestByte 0xC0#8)] onePacket) = .next t :=
  ⟨⟨by decide +kernel, by decide +kernel⟩, _, rfl⟩

theorem witness_ResetHasEveryInvariant : Config.sample.wf = true := by decide

theorem witness_EmptyAndFullMeasureTheQueue :
    (QueueInv State.reset ∧ State.reset.ghost.pushes = State.reset.ghost.pops) ∧
    QueueInv fullQueue ∧ fullQueue.ghost.pushes - fullQueue.ghost.pops = fullQueue.cfg.depth :=
  ⟨⟨reset_queueInv, rfl⟩, fullQueue_queueInv, by decide +kernel⟩

theorem witness_PopReturnsThePushedByte :
    (QueueInv onePacket ∧ hostHalted onePacket = false ∧ emptyR onePacket = false ∧
      onePacket.locks.rxLock = false) ∧
    (∀ st, QueueInv { onePacket with rx := { onePacket.rx with state := st } } ∧
      emptyR { onePacket with rx := { onePacket.rx with state := st } } = false) :=
  ⟨⟨onePacket_queueInv, rfl, by decide +kernel, rfl⟩, fun _ =>
    ⟨{ onePacket_queueInv with }, (by decide +kernel : emptyR onePacket = false)⟩⟩

theorem witness_StepsKeepTheCount :
    QueueInv onePacket ∧ CountInv onePacket ∧ (∀ b, Instr.ingestTerminator ≠ .push b) ∧
    ∃ t, exec .ingestTerminator onePacket = .next t :=
  ⟨onePacket_queueInv, ⟨by decide +kernel, by decide +kernel⟩, by simp, _, rfl⟩

theorem witness_SynchronisersTakeTheChoice :
    (State.reset.ghost.iw ≤ 3 ∧ ¬ 3 ≤ State.reset.ghost.pushes) ∧
    (onePacket.ghost.iw ≤ 3 ∧ 3 ≤ onePacket.ghost.pushes ∧ onePacket.ghost.ic ≤ 3 ∧ 3 ≤ 3) ∧
    (onePacket.ghost.ir ≤ 0 ∧ 0 ≤ onePacket.ghost.pops) ∧
    ¬(onePacket.ghost.ir ≤ 1 ∧ 1 ≤ onePacket.ghost.pops) ∧
    State.reset.faults.hfault = .none ∧ hostFaulted.faults.hfault ≠ .none := by decide +kernel

theorem witness_ViewsOnlyMoveForward :
    (∀ l, Instr.synW2r 3 3 ≠ .reset l) ∧ ∃ t, exec (.synW2r 3 3) onePacket = .next t :=
  ⟨by simp, _, rfl⟩

theorem witness_EscapeAndUnescapeRules :
    ((0x41#8 : Byte) ≠ 0xC0#8 ∧ (0x41#8 : Byte) ≠ 0xDB#8) ∧
    ((0xC0#8 : Byte) ≠ 0xDC#8 ∧ (0xC0#8 : Byte) ≠ 0xDD#8) := by decide

theorem witness_EscapedLengths : (0x0A#8 : Byte) ≠ Config.sample.chkType := by decide

theorem witness_PlainEncodeStarts :
    1 < State.reset.cfg.nreq ∧ 255 < 2 ^ State.reset.cfg.lw ∧ plainMayStart .tx State.reset :=
  ⟨by decide, by decide, reset_mayStart .tx⟩

theorem witness_PlainCommandsAreRefused :
    1 < requesting.cfg.nreq ∧ ¬ plainMayStart .tx requesting ∧ ¬ plainMayStart .rx requesting := by
  refine ⟨by decide, fun h => ?_, fun h => ?_⟩ <;>
    exact absurd (h.2.2.1 true (by decide)) (by decide)

theorem witness_LeadAndTypeSteps :
    txAt .lead (encoding .lead .slipmux 0x0A#8 0x41#8) = true ∧
    txAt .lead (encoding .lead .slip 0x0A#8 0x41#8) = true ∧
    txAt .type (encoding .type .slipmux 0xA9#8 0x41#8) = true := by decide +kernel

theorem witness_PayloadSteps :
    (encoding .pay .slip 0#8 0xC0#8).tx.idx + 1 < 2 ^ (encoding .pay .slip 0#8 0xC0#8).cfg.lw ∧
    txAt .pay (encoding .pay .slip 0#8 0xC0#8) = true ∧
    payRead (encoding .pay .slip 0#8 0xC0#8) 0 = 0xC0#8 ∧
    txAt .pay2 (encoding .pay2 .slip 0#8 0xC0#8) = true ∧
    (encoding .pay .slip 0#8 0xC0#8).env.txCmd[0]? =
      some { type := 0#8, len := 1, payload := [0xC0#8] } := by decide +kernel

theorem witness_ChecksumSteps :
    txAt .clo { encoding .clo .slipmux 0xA9#8 0x41#8 with tx :=
      { (encoding .clo .slipmux 0xA9#8 0x41#8).tx with fcs := 0x243F#16 } } = true ∧
    (0xC0#8 : Byte) = (~~~(0x243F#16 : Fcs)).setWidth 8 ∧
    (0xDB#8 : Byte) = ((~~~(0x243F#16 : Fcs)) >>> 8).setWidth 8 ∧
    txAt .chi (encoding .chi .slipmux 0xA9#8 0x41#8) = true ∧
    txAt .clo2 (encoding .clo2 .slipmux 0xA9#8 0x41#8) = true ∧
    txAt .chi2 (encoding .chi2 .slipmux 0xA9#8 0x41#8) = true := by decide +kernel

theorem witness_TrailStepEndsTheCall :
    (encoding .trail .slipmux 0x0A#8 0x41#8).tx.mode = .slipmux ∧
    txAt .trail (encoding .trail .slipmux 0x0A#8 0x41#8) = true ∧
    txAt .trail (encoding .trail .slip 0x0A#8 0x41#8) = true := by decide +kernel

theorem witness_StuffRowsEmitTheEscapeSequence :
    (txReady (encoding .pay .slip 0#8 0xC0#8) = true ∧
      stuffedByte (encoding .pay .slip 0#8 0xC0#8) = some 0xC0#8) ∧
    stuffedByte (encoding .pay .slip 0#8 0xDB#8) = some 0xDB#8 ∧
    stuffedByte (encoding .pay .slip 0#8 0x41#8) = some 0x41#8 ∧
    stuffedByte (encoding .clo .slipmux 0xA9#8 0x41#8) = some 0xFF#8 ∧
    stuffedByte (encoding .chi .slipmux 0xA9#8 0x41#8) = some 0xFF#8 ∧
    (0xFF#8 : Byte) ≠ 0xC0#8 ∧ (0xFF#8 : Byte) ≠ 0xDB#8 := by decide +kernel

theorem witness_DisabledStepsDoNothing :
    (TxState.lead, Instr.tLead) ∈ [(TxState.lead, Instr.tLead)] ∧
    State.reset.tx.state ≠ .lead ∧ State.reset.rx.state ≠ .drain ∧
    hostFaulted.faults.hfault ≠ .none ∧ hostInformed.views.wfaultH = true ∧
    0 < State.reset.cfg.nreq ∧ requested .tx 0 State.reset = false ∧
    lockHeld .tx (waiting 0) = true ∧ blocked .tx 0 (waiting 0) = false := by decide +kernel

theorem witness_SlipEncodeCallEmitsTheFrame :
    SlotInv State.reset ∧ 1 < State.reset.cfg.nreq ∧
    ([0xC0#8, 0x01#8] : List Byte).length < 2 ^ State.reset.cfg.lw ∧
    plainMayStart .tx State.reset ∧ State.reset.env.sinkReady = true :=
  ⟨reset_slotInv, by decide, by decide, reset_mayStart .tx, rfl⟩

theorem witness_SmxEncodeCallEmitsTheFrame :
    SlotInv State.reset ∧ 1 < State.reset.cfg.nreq ∧
    ([0xC0#8, 0x01#8] : List Byte).length < 2 ^ State.reset.cfg.lw ∧
    hostHalted State.reset = false ∧ requested .tx 1 State.reset = false ∧
    State.reset.tx.state = .idle ∧ State.reset.locks.txLock = false ∧
    State.reset.env.sinkReady = true :=
  ⟨reset_slotInv, by decide, by decide, rfl, rfl, rfl, rfl, rfl⟩

theorem witness_PlainDecodeStarts :
    (1 < State.reset.cfg.nreq ∧ 255 < 2 ^ State.reset.cfg.lw ∧ plainMayStart .rx State.reset ∧
      countR State.reset = 0) ∧
    plainMayStart .rx onePacket ∧ countR onePacket ≠ 0 :=
  ⟨⟨by decide, by decide, reset_mayStart .rx, by decide +kernel⟩, onePacket_mayStart .rx,
    by decide +kernel⟩

theorem witness_DrainOnEmptyQueue :
    (rxAt .drain (drained .drain .slip 1) = true ∧ emptyR (drained .drain .slip 1) = true ∧
      countR (drained .drain .slip 1) ≠ 0) ∧
    rxAt .drain (drained .drain .slipmux 0) = true ∧
    emptyR (drained .drain .slipmux 0) = true ∧ countR (drained .drain .slipmux 0) = 0 := by
  decide +kernel

theorem decoding_headIs (st : RxState) (m : Mode) (rcv : Nat) (ty : Option Byte) (b : Byte) :
    headIs b (decoding st m rcv ty b) := ⟨rfl, rfl⟩

theorem witness_DrainOfATerminator :
    headIs 0xC0#8 (decoding .drain .slip 0 none 0xC0#8) ∧
    headIs 0xC0#8 (decoding .drain .slipmux 1 (some 0xA9#8) 0xC0#8) ∧
    rxAt .drain (decoding .drain .slip 0 none 0xC0#8) = true ∧
    (decoding .drain .slip 0 none 0xC0#8).rx.rcv = 0 ∧
    rxAt .drain (decoding .drain .slipmux 1 (some 0xA9#8) 0xC0#8) = true ∧
    0 < (decoding .drain .slipmux 1 (some 0xA9#8) 0xC0#8).rx.rcv ∧
    (decoding .drain .slipmux 1 (some 0xA9#8) 0xC0#8).rx.mode = .slipmux :=
  ⟨decoding_headIs _ _ _ _ _, decoding_headIs _ _ _ _ _, rfl, rfl, rfl, by decide, rfl⟩

theorem witness_TypeRows :
    (let s := encoding .type .slipmux 0xA9#8 0x41#8
     txReady s = true ∧ s.tx.mode = .slipmux ∧ s.tx.type = s.cfg.chkType ∧ s.tx.chk = true ∧
      s.tx.state = .type) ∧
    (let s := encoding .type .slipmux 0x0A#8 0x41#8
     txReady s = true ∧ s.tx.type ≠ s.cfg.chkType ∧ s.tx.chk = false ∧ s.tx.state = .type) ∧
    (let s := encoding .clo .slipmux 0xA9#8 0x41#8
     txReady s = true ∧ s.tx.type = s.cfg.chkType ∧ s.tx.state = .clo) ∧
    (let s := decoding .drain .slipmux 2 (some 0xA9#8) 0xC0#8
     rxAt .drain s = true ∧ headIs 0xC0#8 s ∧ 0 < s.rx.rcv ∧ s.rx.mode = .slipmux ∧
      s.rx.typeValid = true ∧ s.rx.typeReg = s.cfg.chkType) ∧
    (let s := decoding .drain .slipmux 2 (some 0x0A#8) 0xC0#8
     rxAt .drain s = true ∧ headIs 0xC0#8 s ∧ s.rx.typeReg ≠ s.cfg.chkType) := by
  refine ⟨by decide +kernel, by decide +kernel, by decide +kernel, ?_, ?_⟩
  · exact ⟨rfl, decoding_headIs _ _ _ _ _, by decide, rfl, rfl, rfl⟩
  · exact ⟨rfl, decoding_headIs _ _ _ _ _, by decide⟩

theorem witness_DrainOfOtherBytes :
    (rxAt .drain (decoding .drain .slip 0 none 0xDB#8) = true ∧
      headIs 0xDB#8 (decoding .drain .slip 0 none 0xDB#8)) ∧
    rxAt .drain (decoding .drain .slipmux 4 (some 0x0A#8) 0x41#8) = true ∧
    (decoding .drain .slipmux 4 (some 0x0A#8) 0x41#8).rx.cap <
      2 ^ (decoding .drain .slipmux 4 (some 0x0A#8) 0x41#8).cfg.lw ∧
    headIs 0x41#8 (decoding .drain .slipmux 4 (some 0x0A#8) 0x41#8) ∧
    (0x41#8 : Byte) ≠ 0xC0#8 ∧ (0x41#8 : Byte) ≠ 0xDB#8 :=
  ⟨⟨rfl, decoding_headIs _ _ _ _ _⟩, rfl, by decide, decoding_headIs _ _ _ _ _, by decide,
    by decide⟩

theorem witness_EscStepDeliversTheFollower :
    (rxAt .esc (decoding .esc .slipmux 0 none 0xC0#8) = true ∧
      (decoding .esc .slipmux 0 none 0xC0#8).rx.cap <
        2 ^ (decoding .esc .slipmux 0 none 0xC0#8).cfg.lw ∧
      headIs 0xC0#8 (decoding .esc .slipmux 0 none 0xC0#8)) ∧
    ((0xC0#8 : Byte) ≠ 0xDC#8 ∧ (0xC0#8 : Byte) ≠ 0xDD#8) ∧
    rxAt .esc (drained .esc .slip 1) = true ∧ emptyR (drained .esc .slip 1) = true :=
  ⟨⟨rfl, by decide, decoding_headIs _ _ _ _ _⟩, by decide, rfl, rfl⟩

theorem witness_SlipDecodeCallIsTheFunction :
    QueueInv onePacket ∧ 1 < onePacket.cfg.nreq ∧ 255 < 2 ^ onePacket.cfg.lw ∧
    plainMayStart .rx onePacket ∧
    slipDec (visibleQueue onePacket) (countR onePacket) 255 =
      { out := [0x41#8], len := 1, type := none, complete := true, rest := [],
        fatal := false } ∧
    (slipDec (visibleQueue onePacket) (countR onePacket) 0).fatal = true :=
  ⟨onePacket_queueInv, by decide, by decide, onePacket_mayStart .rx, by decide +kernel,
    by decide +kernel⟩

theorem witness_SmxDecodeCallIsTheFunction :
    QueueInv onePacket ∧ SlotInv onePacket ∧ 1 < onePacket.cfg.nreq ∧
    255 < 2 ^ onePacket.cfg.lw ∧ hostHalted onePacket = false ∧
    requested .rx 1 onePacket = false ∧ onePacket.rx.state = .idle ∧
    onePacket.locks.rxLock = false ∧
    (smxDec onePacket.cfg (visibleQueue onePacket) (countR onePacket) 255 none).fatal = true ∧
    (smxDec onePacket.cfg [0xC0#8, 0x0A#8, 0x41#8, 0xC0#8] 1 255 none).complete = true :=
  ⟨onePacket_queueInv, onePacket_slotInv, by decide, by decide, rfl, rfl, rfl, rfl,
    by decide +kernel, by decide +kernel⟩

theorem witness_SlipDecodeInvertsTheFrame :
    ([0xC0#8] : List Byte) ≠ [] ∧ 1 ≤ 1 ∧ (1 : Nat) ≠ 0 := by decide

theorem witness_SmxDecodeInvertsTheFrame :
    (0x0A#8 : Byte) ≠ 0xC0#8 ∧ (0x0A#8 : Byte) ≠ 0xDB#8 ∧ 1 ≤ 1 ∧ (1 : Nat) ≠ 0 ∧
    ([0x68#8] : List Byte) = [0x68#8] ++ (if (0x0A#8 : Byte) = Config.sample.chkType then
      [fcsLow (crcFold Config.sample.crcInit (0x0A#8 :: [0x68#8])),
        fcsHigh (crcFold Config.sample.crcInit (0x0A#8 :: [0x68#8]))] else []) ∧
    ([0x68#8] : List Byte) ≠ [] :=
  ⟨by decide, by decide, by decide, by decide, rfl, by decide⟩

theorem witness_SlipRoundTrip :
    QueueInv State.reset ∧ SlotInv State.reset ∧ faultFree State.reset = true ∧
    1 < State.reset.cfg.nreq ∧ 7 < 2 ^ State.reset.cfg.lw ∧
    1 ≤ (List.replicate 7 (0xC0#8 : Byte)).length ∧
    (List.replicate 7 (0xC0#8 : Byte)).length ≤ 7 ∧
    (slipFrame (List.replicate 7 0xC0#8)).length ≤ State.reset.cfg.depth ∧
    plainMayStart .tx State.reset ∧ plainMayStart .rx State.reset ∧
    State.reset.env.sinkReady = true ∧ State.reset.ghost.pushes = State.reset.ghost.pops ∧
    State.reset.ghost.ir = State.reset.ghost.pops ∧
    State.reset.w.closed = State.reset.rx.consumed ∧ State.reset.w.lastByte = 0xC0#8 :=
  ⟨reset_queueInv, reset_slotInv, by decide +kernel, by decide, by decide, by decide, by decide,
    by decide +kernel, reset_mayStart .tx, reset_mayStart .rx, rfl, rfl, rfl, rfl, rfl⟩

theorem witness_SmxRoundTrip :
    QueueInv State.reset ∧ SlotInv State.reset ∧ faultFree State.reset = true ∧
    1 < State.reset.cfg.nreq ∧ 2 < 2 ^ State.reset.cfg.lw ∧
    1 ≤ ([0x68#8, 0xC0#8] : List Byte).length ∧
    (0x0A#8 : Byte) ≠ 0xC0#8 ∧ (0x0A#8 : Byte) ≠ 0xDB#8 ∧
    ([0x68#8, 0xC0#8] : List Byte).length +
      (if (0x0A#8 : Byte) = State.reset.cfg.chkType then 2 else 0) ≤ 2 ∧
    (smxFrame State.reset.cfg 0x0A#8 [0x68#8, 0xC0#8]).length ≤ State.reset.cfg.depth ∧
    (⟨false, 0#8, true⟩ : DecodeState).typeValid = false ∧
    requested .tx 1 State.reset = false ∧ State.reset.tx.state = .idle ∧
    State.reset.locks.txLock = false ∧ requested .rx 1 State.reset = false ∧
    State.reset.rx.state = .idle ∧ State.reset.locks.rxLock = false ∧
    State.reset.env.sinkReady = true ∧ State.reset.ghost.pushes = State.reset.ghost.pops ∧
    State.reset.ghost.ir = State.reset.ghost.pops ∧
    State.reset.w.closed = State.reset.rx.consumed ∧ State.reset.w.lastByte = 0xC0#8 :=
  ⟨reset_queueInv, reset_slotInv, by decide +kernel, by decide, by decide, by decide, by decide,
    by decide, by decide, by decide +kernel, rfl, rfl, rfl, rfl, rfl, rfl, rfl, rfl, rfl, rfl, rfl,
    rfl⟩

/-- `esc` emits at most two bytes. -/
theorem esc_length_le (b : Byte) : (esc b).length ≤ 2 := by
  unfold esc; split <;> [skip; split] <;> simp

/-- A frame of the checksum Type with a two-byte payload fits the sample ring, whatever its checksum. -/
theorem checksum_frame_fits :
    (smxFrame State.reset.cfg State.reset.cfg.chkType [0x68#8, 0xC0#8]).length
      ≤ State.reset.cfg.depth := by
  have lo := esc_length_le
    (fcsLow (crcFold State.reset.cfg.crcInit [State.reset.cfg.chkType, 0x68#8, 0xC0#8]))
  have hi := esc_length_le
    (fcsHigh (crcFold State.reset.cfg.crcInit [State.reset.cfg.chkType, 0x68#8, 0xC0#8]))
  have pay : (escAll [0x68#8, 0xC0#8]).length = 3 := by decide
  have depth : State.reset.cfg.depth = 16 := by decide
  simp only [smxFrame, checksumField, if_true, List.length_append, List.length_cons, List.length_nil,
    pay, depth]
  omega

/-- The SLIPMUX round trip with the checksum Type. -/
theorem witness_SmxRoundTrip_checksum :
    ([0x68#8, 0xC0#8] : List Byte).length +
      (if State.reset.cfg.chkType = State.reset.cfg.chkType then 2 else 0) ≤ 4 ∧
    4 < 2 ^ State.reset.cfg.lw ∧
    State.reset.cfg.chkType ≠ 0xC0#8 ∧ State.reset.cfg.chkType ≠ 0xDB#8 ∧
    (smxFrame State.reset.cfg State.reset.cfg.chkType [0x68#8, 0xC0#8]).length
      ≤ State.reset.cfg.depth :=
  ⟨by decide, by decide, by decide, by decide, checksum_frame_fits⟩

theorem witness_SlipmuxPostsRaiseTheRequest :
    1 < State.reset.cfg.nreq ∧ hostHalted State.reset = false ∧
    slotBusy .tx 1 State.reset = false ∧ slotBusy .rx 1 State.reset = false ∧
    hostHalted hostFaulted = true := by decide +kernel

theorem witness_PostsOutsideTheProtocolStop :
    1 < requesting.cfg.nreq ∧ hostHalted requesting = false ∧
    slotBusy .tx 1 requesting = true ∧ slotBusy .rx 1 requesting = true ∧
    requesting.cfg.nreq ≤ 2 := by decide +kernel

theorem witness_TransmitGrantStartsTheCall :
    1 < requesting.cfg.nreq ∧ requested .tx 1 requesting = true ∧
    requesting.locks.txLock = false ∧ requesting.tx.state = .idle ∧
    hostHalted requesting = false ∧
    requesting.env.txCmd[1]? = some { type := 0#8, len := 0, payload := [] } ∧
    0 < 2 ^ requesting.cfg.lw := by decide +kernel

theorem witness_ReceiveGrantStartsTheCall :
    1 < requesting.cfg.nreq ∧ requested .rx 1 requesting = true ∧
    requesting.locks.rxLock = false ∧ requesting.rx.state = .idle ∧
    hostHalted requesting = false ∧
    requesting.env.rxCmd[1]? = some { cap := 0, stIn := ⟨false, 0#8, false⟩ } ∧
    0 < 2 ^ requesting.cfg.lw ∧ countR requesting = 0 ∧
    countR { onePacket with locks := requesting.locks } ≠ 0 ∧
    requested .rx 1 { onePacket with locks := requesting.locks } = true := by decide +kernel

theorem witness_ReceiveReleaseEndsTheCall :
    (hostHalted (drained .esc .slipmux 1) = false ∧ (drained .esc .slipmux 1).rx.mode = .slipmux ∧
      (drained .esc .slipmux 1).rx.state = .esc ∧ emptyR (drained .esc .slipmux 1) = true) ∧
    (hostHalted (decoding .drain .slipmux 1 none 0xC0#8) = false ∧
      headIs 0xC0#8 (decoding .drain .slipmux 1 none 0xC0#8) ∧
      0 < (decoding .drain .slipmux 1 none 0xC0#8).rx.rcv) ∧
    ((drained .drain .slipmux 0).rx.state = .drain ∧ emptyR (drained .drain .slipmux 0) = true ∧
      countR (drained .drain .slipmux 0) = 0) ∧
    hostHalted hostFaulted = true ∧ (decoding .drain .slip 1 none 0xC0#8).rx.mode = .slip ∧
    rxEnds (decoding .drain .slipmux 0 none 0xC0#8) = false ∧
    rxEnds (decoding .drain .slipmux 1 none 0xDB#8) = false ∧
    rxEnds (decoding .esc .slipmux 1 none 0xC0#8) = false ∧
    rxEnds (drained .drain .slipmux 1) = false :=
  ⟨by decide +kernel, ⟨rfl, decoding_headIs _ _ _ _ _, by decide⟩, by decide +kernel,
    by decide +kernel, rfl, by decide +kernel, by decide +kernel, by decide +kernel,
    by decide +kernel⟩

theorem witness_TimeoutOfABlockedRequestIsFatal :
    1 < (waiting 0).cfg.nreq ∧ hostHalted (waiting 0) = false ∧
    blocked .tx 1 (waiting 0) = true ∧ blocked .rx 1 (waiting 0) = true := by decide +kernel

theorem witness_StepKeepsLockInv :
    LockInv (scheduled [.op (.internalStep (.lockGrant .tx 1))] requesting) ∧
    ∃ t, step (scheduled [.op (.internalStep (.lockGrant .tx 1))] requesting) = .next t :=
  ⟨⟨by decide +kernel, by decide +kernel⟩, _, rfl⟩

theorem witness_StepKeepsTxInv :
    TxInv (scheduled [.op (.txStep 3#4)] (encoding .pay .slip 0#8 0xC0#8)) ∧
    ∃ t, step (scheduled [.op (.txStep 3#4)] (encoding .pay .slip 0#8 0xC0#8)) = .next t :=
  ⟨by constructor <;> decide +kernel, _, rfl⟩

theorem witness_StepKeepsRxInv :
    RxInv (scheduled [.op (.rxStep 1#2)] (decoding .drain .slipmux 0 (some 0x0A#8) 0x41#8)) ∧
    ∃ t, step (scheduled [.op (.rxStep 1#2)]
      (decoding .drain .slipmux 0 (some 0x0A#8) 0x41#8)) = .next t :=
  ⟨by constructor <;> decide +kernel, _, rfl⟩

theorem witness_StepKeepsSlotInv :
    SlotInv (scheduled [.tick] (waiting 1)) ∧
    ∃ t, step (scheduled [.tick] (waiting 1)) = .next t :=
  ⟨by constructor <;> decide +kernel, _, rfl⟩

theorem witness_HaltedDomainsAreFrozen :
    (hostFaulted.faults.hfault ≠ .none ∧ hostInformed.views.wfaultH = true ∧
      (∀ l, Instr.ingest 0x41#8 ≠ .reset l) ∧
      ∃ t, exec (.ingest 0x41#8) hostFaulted = .next t) ∧
    (FaultViewInv (scheduled [.tick] hostInformed) ∧ Event.tick.resets = false ∧
      ∃ t, step (scheduled [.tick] hostInformed) = .next t) ∧
    (hostInformed.faults.wfault = true ∧ writeInformed.views.hfaultW = true ∧
      ∃ t, exec (.synFault .write) writeInformed = .next t) ∧
    FaultViewInv (scheduled [.op (.ingestByte 0xC0#8)] writeInformed) ∧
    ∃ t, step (scheduled [.op (.ingestByte 0xC0#8)] writeInformed) = .next t :=
  ⟨⟨by decide, rfl, by simp, _, rfl⟩,
    ⟨⟨fun _ => rfl, fun h => absurd h (by decide)⟩, rfl, _, rfl⟩, ⟨rfl, rfl, _, rfl⟩,
    ⟨fun h => absurd h (by decide), fun _ => by decide⟩, _, rfl⟩

theorem witness_FaultRegistersAreSticky :
    ((∀ l, Instr.rDrain ≠ .reset l) ∧ ∃ t, exec .rDrain hostFaulted = .next t) ∧
    (hostFaulted.faults.hfault ≠ .none ∧ hostInformed.faults.wfault = true ∧
      hostInformed.views.wfaultH = true) ∧
    FaultViewInv (scheduled [.op (.internalStep (.synFault .write))] hostFaulted) ∧
    ∃ t, step (scheduled [.op (.internalStep (.synFault .write))] hostFaulted) = .next t :=
  ⟨⟨by simp, _, rfl⟩, by decide, ⟨fun h => absurd h (by decide), fun h => absurd h (by decide)⟩, _,
    rfl⟩

/-- Slot 1 waits for the receive lock alone, and has waited out its time. -/
def rxWaiting : State :=
  let s := waiting 0
  { s with locks := { s.locks with txLock := false, txReq := [false, false], rxWait := [0, 1] } }

theorem waiting_notExpired (d : Dir) (k : Nat) (h : blocked d k (waiting 0) = true) :
    (waits d (waiting 0)).getD k 0 ≠ (waiting 0).cfg.lockTimeout := by
  match k with
  | 0 => cases d <;> exact absurd h (by decide)
  | 1 => cases d <;> decide
  | k + 2 => cases d <;> exact absurd h (by simp [blocked, requested, requests, waiting, requesting])

theorem rxWaiting_noTransmitExpired (k : Nat) (h : blocked .tx k rxWaiting = true) :
    rxWaiting.locks.txWait.getD k 0 ≠ rxWaiting.cfg.lockTimeout := by
  match k with
  | 0 => exact absurd h (by decide)
  | 1 => exact absurd h (by decide)
  | k + 2 => exact absurd h (by simp [blocked, requested, requests, rxWaiting, waiting, requesting])

theorem lastTick_noTransmitWait (k : Nat) : blocked .tx k lastTick = false := by
  simp [blocked, unavailable, lockHeld, engineBusy, lastTick, drained, State.reset, State.resetFor,
    LockRegs.reset, TxRegs.reset]

theorem txLastTick_noReceiveWait (k : Nat) : blocked .rx k txLastTick = false := by
  simp [blocked, unavailable, lockHeld, engineBusy, txLastTick, encoding, State.reset, State.resetFor,
    LockRegs.reset, RxRegs.reset]

theorem witness_ClockTickRunsTheWaitCounters :
    ((scheduled [.tick] (waiting 1)).env.script = .tick :: [] ∧
    hostHalted (scheduled [.tick] hostFaulted) = true ∧
    hostHalted (scheduled [.tick] (waiting 1)) = false ∧ SlotInv (scheduled [.tick] (waiting 1)) ∧
    (1 < (waiting 1).cfg.nreq ∧ blocked .tx 1 (waiting 1) = true ∧
      (waiting 1).locks.txWait.getD 1 0 = (waiting 1).cfg.lockTimeout) ∧
    (SlotInv (scheduled [.tick] rxWaiting) ∧ hostHalted rxWaiting = false ∧
      blocked .rx 1 rxWaiting = true ∧
      rxWaiting.locks.rxWait.getD 1 0 = rxWaiting.cfg.lockTimeout ∧
      ∀ k, blocked .tx k rxWaiting = true →
        rxWaiting.locks.txWait.getD k 0 ≠ rxWaiting.cfg.lockTimeout) ∧
    ∀ d k, blocked d k (waiting 0) = true →
      (waits d (waiting 0)).getD k 0 ≠ (waiting 0).cfg.lockTimeout) ∧
    ((lastTick.env.strobes = [] ∧ SlotInv lastTick ∧ 0 < lastTick.cfg.nreq ∧
      hostHalted lastTick = false ∧ lastTick.rx.mode = .slipmux ∧ rxEnds lastTick = true ∧
      requested .rx 0 lastTick = true ∧ blocked .rx 0 lastTick = true ∧
      lastTick.locks.rxWait.getD 0 0 = lastTick.cfg.lockTimeout ∧
      ∀ k, blocked .tx k lastTick = true →
        lastTick.locks.txWait.getD k 0 ≠ lastTick.cfg.lockTimeout) ∧
    (txLastTick.env.strobes = [] ∧ SlotInv txLastTick ∧ 0 < txLastTick.cfg.nreq ∧
      hostHalted txLastTick = false ∧ txLastTick.tx.mode = .slipmux ∧
      txLastTick.tx.state = .trail ∧ txLastTick.env.sinkReady = true ∧
      requested .tx 0 txLastTick = true ∧ blocked .tx 0 txLastTick = true ∧
      txLastTick.locks.txWait.getD 0 0 = txLastTick.cfg.lockTimeout ∧
      ∀ k, blocked .rx k txLastTick = true →
        txLastTick.locks.rxWait.getD k 0 ≠ txLastTick.cfg.lockTimeout)) :=
  ⟨⟨rfl, by decide +kernel, by decide +kernel, by constructor <;> decide +kernel,
    ⟨by decide, by decide +kernel, by decide +kernel⟩,
    ⟨by constructor <;> decide +kernel, by decide +kernel, by decide +kernel, by decide +kernel,
      rxWaiting_noTransmitExpired⟩, waiting_notExpired⟩,
    ⟨rfl, by constructor <;> decide +kernel, by decide +kernel, rfl, rfl, by decide +kernel, rfl, rfl,
      rfl, fun k h => absurd h (by simp [lastTick_noTransmitWait])⟩,
    ⟨rfl, by constructor <;> decide +kernel, by decide +kernel, rfl, rfl, rfl, rfl, rfl, rfl, rfl,
      fun k h => absurd h (by simp [txLastTick_noReceiveWait])⟩⟩

theorem witness_PostsOfOneCycle :
    (onePacket.env.strobes = [] ∧ 0 < onePacket.cfg.nreq ∧ 1 < onePacket.cfg.nreq ∧
      (0 : Nat) ≠ 1 ∧ 255 < 2 ^ onePacket.cfg.lw ∧ hostHalted onePacket = false ∧
      slotBusy .rx 1 onePacket = false ∧ slotBusy .tx 1 onePacket = false) ∧
    (contended.env.strobes = [] ∧ 255 < 2 ^ contended.cfg.lw ∧ ∀ d, grantable d 0 contended = true ∧
      grantable d 1 contended = true) ∧
    ((drained .drain .slip 1).env.strobes = [] ∧ rxAt .drain (drained .drain .slip 1) = true ∧
      emptyR (drained .drain .slip 1) = true ∧ countR (drained .drain .slip 1) ≠ 0 ∧
      plainMayStart .tx (drained .drain .slip 1)) ∧
    hostHalted hostFaulted = true := by
  refine ⟨by decide +kernel, ⟨rfl, by decide, fun d => by cases d <;> decide⟩,
    ⟨rfl, rfl, rfl, by decide +kernel, ?_⟩, by decide +kernel⟩
  exact ⟨rfl, rfl, by decide, fun _ h => (by cases h), by decide +kernel, rfl, rfl⟩

/-- The last state of a run over the traffic, where each entry is one the traffic allows. -/
def runTraffic (tr : Traffic) : List Event → State → Option State
  | [], s => some s
  | e :: es, s =>
    if tr.allowsEvent s e then
      match runEvent e s with
      | .next t => runTraffic tr es t
      | .fault _ => none
      | .refused _ => none
    else none

theorem run_of_runTraffic (tr : Traffic) (es : List Event) (s u t : State) (h : tr.Run s u)
    (e : runTraffic tr es u = some t) : tr.Run s t := by
  induction es generalizing u with
  | nil => injection e with e; exact e ▸ h
  | cons x es ih =>
    simp only [runTraffic] at e
    split at e
    · rename_i hx
      split at e
      · rename_i v hv; exact ih v (.event x h hx hv) e
      · cases e
      · cases e
    · cases e

/-- One SLIP packet, and the run that feeds it, shows it to the decoder and decodes it. -/
def onePacketTraffic : Traffic :=
  { packets := [{ mode := .slip, type := 0#8, payload := [0x41#8] }], txRequester := 0,
    rxRequester := 1 }

/-- R256 on the smallest traffic: a run that ends with the packet decoded. -/
theorem witness_CleanTrafficNeverFaults :
    State.reset.cfg.wf = true ∧ (∀ p ∈ onePacketTraffic.packets, p.clean = true) ∧
    ∃ t, onePacketTraffic.Run State.reset t ∧
      (t.rx.done && t.rx.resComplete && t.rx.resLen == 1) = true := by
  refine ⟨by decide, by decide, ?_⟩
  have h : ((runTraffic onePacketTraffic
      [.op (.ingestPort true 0xC0#8), .op (.ingestPort true 0x41#8), .op (.ingestPort true 0xC0#8),
        .op (.internalStep (.synW2r 3 3)), .op (.rxCommand 1 0#1 8 ⟨false, 0#8, false⟩),
        .op (.rxStep 1#2), .op (.rxStep 1#2), .op (.rxStep 1#2)] State.reset).any fun t =>
      t.rx.done && t.rx.resComplete && t.rx.resLen == 1) = true := by decide +kernel
  obtain ⟨t, ht, hp⟩ := (Option.any_eq_true _ _).1 h
  exact ⟨t, run_of_runTraffic _ _ _ _ t .start ht, hp⟩

end Sys2Proof.Tests
end

section
/-! What one entry of the schedule does: the equations of `step` along the schedule and of `runEvent` on
a port word (spec/00_scope.md R15, spec/30_encoding.md R102; log 4). -/

namespace Sys2Proof.Machine

/-- The entry taken off the schedule is the one that runs, and it runs on the schedule's rest. -/
theorem step_of_script_cons {s : State} {e : Event} {rest : List Event}
    (hscript : s.env.script = e :: rest) :
    step s = runEvent e { s with env := { s.env with script := rest } } := by
  simp only [step, runNext, hscript]

/-- A port word the decoder reads selects the operation and nothing else. -/
theorem runEvent_op_of_decode_ok {s : State} {pw : PortWord} {i : Instr}
    (hdecode : decode s.cfg pw = .ok i) : runEvent (.op pw) s = exec i s := by
  simp only [runEvent, hdecode]

/-- Settles O1: the entry runs by `step_of_script_cons`; taking it off leaves the configuration, so the
decoder still reads `i` from it. -/
theorem stepRunsTheDecodedInstruction : Obligations.StepRunsTheDecodedInstruction := by
  intro s pw rest i hscript hdecode
  calc step s = runEvent (.op pw) { s with env := { s.env with script := rest } } :=
        step_of_script_cons hscript
    _ = exec i { s with env := { s.env with script := rest } } :=
        runEvent_op_of_decode_ok hdecode

end Sys2Proof.Machine
end

section
/-! The queue across a step of the machine (spec/20_memory.md R62 to R67, R74, R75): the part of the
state the queue's invariants read, what each operation does to that part, and that both invariants
are kept. -/

namespace Sys2Proof.Machine

/-! ### The queue's part of the state -/

/-- What `QueueInv` and `CountInv` read of a state: neither the engines' registers beside `rptr`,
nor the locks, nor the traces of the sink and the destination. -/
structure QueuePart where
  cfg : Params
  w : IngestRegs
  rptr : Nat
  wptrR : Nat
  closedR : Nat
  rptrW : Nat
  pushes : Nat
  pops : Nat
  cseq : List Nat
  iw : Nat
  ic : Nat
  ir : Nat
  pushTrace : List Byte
  popTrace : List Byte

/-- The queue's part of a state. -/
def queueOf (s : State) : QueuePart where
  cfg := s.cfg
  w := s.w
  rptr := s.rx.rptr
  wptrR := s.views.wptrR
  closedR := s.views.closedR
  rptrW := s.views.rptrW
  pushes := s.ghost.pushes
  pops := s.ghost.pops
  cseq := s.ghost.cseq
  iw := s.ghost.iw
  ic := s.ghost.ic
  ir := s.ghost.ir
  pushTrace := s.ghost.pushTrace
  popTrace := s.ghost.popTrace

theorem QueueInv.of_queueOf_eq {s t : State} (h : queueOf t = queueOf s) (hs : QueueInv s) :
    QueueInv t := by
  simp only [queueOf, QueuePart.mk.injEq] at h
  obtain ⟨hcfg, hw, hrptr, hwptrR, hclosedR, hrptrW, hpushes, hpops, hcseq, hiw, hic, hir, hpushed,
    hpopped⟩ := h
  cases hs
  constructor <;>
    (simp only [hcfg, hw, hrptr, hwptrR, hclosedR, hrptrW, hpushes, hpops, hcseq, hiw, hic, hir,
      hpushed, hpopped]; assumption)

theorem CountInv.of_eq {s t : State} (hw : t.w = s.w) (hcseq : t.ghost.cseq = s.ghost.cseq)
    (hpushed : t.ghost.pushTrace = s.ghost.pushTrace) (hs : CountInv s) : CountInv t where
  lastByte_eq := by rw [hw, hpushed, hs.lastByte_eq]
  cseq_eq := by rw [hcseq, hpushed, hs.cseq_eq]

/-! ### What leaves the queue alone -/

@[simp] theorem queueOf_result (n : Nat) (c e : Bool) (s : State) :
    queueOf (result n c e s) = queueOf s := by
  rcases result_cases n c e s with ⟨_, h⟩ | ⟨_, h⟩ <;> simp only [h, queueOf]

@[simp] theorem queueOf_noise (s : State) : queueOf (noise s) = queueOf s := by
  rcases noise_cases s with ⟨_, h⟩ | ⟨_, h⟩ <;> simp only [h, queueOf]

@[simp] theorem queueOf_store (d : Byte) (s : State) : queueOf (store d s) = queueOf s := by
  rcases store_cases d s with ⟨_, h⟩ | ⟨_, h⟩ <;> simp only [h, queueOf]

@[simp] theorem queueOf_deliver (d : Byte) (s : State) : queueOf (deliver d s) = queueOf s := by
  rcases deliver_cases d s with ⟨_, _, h⟩ | ⟨_, h⟩ <;> rw [h]
  · rfl
  · exact queueOf_store d s

@[simp] theorem queueOf_complete (s : State) : queueOf (complete s) = queueOf s :=
  queueOf_result _ _ _ _

@[simp] theorem queueOf_escByte (f : Byte) (s : State) : queueOf (escByte f s) = queueOf s :=
  queueOf_deliver (unesc f) s

@[simp] theorem queueOf_raiseFatal (c : FatalCause) (s : State) :
    queueOf (raiseFatal c s) = queueOf s := by
  simp [queueOf]

@[simp] theorem queueOf_txStep (s : State) : queueOf (txStep s) = queueOf s := by
  unfold txStep
  cases s.tx.state <;> rfl

@[simp] theorem queueOf_startRx (m : Mode) (q cap : Nat) (st : DecodeState) (s : State) :
    queueOf (startRx m q cap st s) = queueOf s := by
  unfold startRx
  dsimp only
  split
  · rw [queueOf_result]; rfl
  · rfl

@[simp] theorem queueOf_clkTimer (waited asked : List (Dir × Nat)) (s : State) :
    queueOf (clkTimer waited asked s) = queueOf s := by
  simp [queueOf]

/-! ### What moves it -/

/-- A step of the decode engine pops the head or leaves the queue alone, and pops only where a byte
is visible (R162, R166). -/
theorem queueOf_rxStep (s : State) :
    queueOf (rxStep s) = queueOf s ∨
      emptyR s = false ∧ queueOf (rxStep s) = queueOf (popByte s) := by
  unfold rxStep
  cases s.rx.state with
  | idle => exact .inl rfl
  | drain =>
    rcases drainStep_cases s with ⟨_, _, h⟩ | ⟨_, _, h⟩ | ⟨he, _, _, h⟩ | ⟨he, _, _, h⟩ |
      ⟨he, _, h⟩ | ⟨he, _, _, h⟩ <;> simp only [h]
    · exact .inl (queueOf_result _ _ _ _)
    · exact .inl (queueOf_raiseFatal _ _)
    · exact .inr ⟨he, queueOf_complete _⟩
    · exact .inr ⟨he, queueOf_noise _⟩
    · exact .inr ⟨he, rfl⟩
    · exact .inr ⟨he, queueOf_deliver _ _⟩
  | esc =>
    rcases escStep_cases s with ⟨_, h⟩ | ⟨he, h⟩ <;> simp only [h]
    · exact .inl (queueOf_result _ _ _ _)
    · exact .inr ⟨he, queueOf_escByte _ _⟩

/-- Everything an atomic step can do to the queue: nothing, a push with its count (R121), a pop of a
visible byte (R65), or a move of the views that R74 admits. -/
theorem AtomicStep.queue_cases {edge : Option State} {s t : State} (h : AtomicStep edge s t) :
    queueOf t = queueOf s ∨
    (∃ b, writeHalted s = false ∧ fullW s = false ∧ t = ingestByte b s) ∨
    (emptyR s = false ∧ queueOf t = queueOf (popByte s)) ∨
    (∃ iw ic, w2rAdmits iw ic s = true ∧ queueOf t =
      { queueOf s with
        wptrR := iw % 2 ^ (s.cfg.aw + 1)
        closedR := s.ghost.cseq.getD ic 0 % 2 ^ s.cfg.cw
        iw := iw, ic := ic }) ∨
    (∃ ir, r2wAdmits ir s = true ∧ queueOf t =
      { queueOf s with rptrW := ir % 2 ^ (s.cfg.aw + 1), ir := ir }) := by
  cases h with
  | ingest b hh hf => exact .inr (.inl ⟨b, hh, hf, rfl⟩)
  | pop _ _ he => exact .inr (.inr (.inl ⟨he, rfl⟩))
  | rx _ => exact (queueOf_rxStep s).imp_right fun hp => .inr (.inl hp)
  | synW2r iw ic ha => exact .inr (.inr (.inr (.inl ⟨iw, ic, ha, rfl⟩)))
  | synR2w ir ha => exact .inr (.inr (.inr (.inr ⟨ir, ha, rfl⟩)))
  | ingestFull _ _ => exact .inl (queueOf_raiseFatal _ _)
  | timeout _ _ _ _ _ => exact .inl (queueOf_raiseFatal _ _)
  | tx _ => exact .inl (queueOf_txStep s)
  | startRx _ _ _ _ _ => exact .inl (queueOf_startRx _ _ _ _ _)
  | grantRx _ _ _ => exact .inl (queueOf_startRx _ _ _ _ _)
  | tick _ _ _ => exact .inl (queueOf_clkTimer _ _ _)
  | _ => exact .inl rfl

/-! ### The queue's invariant, per move -/

/-- Two bytes that fit in the ring together lie in different cells (R63). -/
theorem ringIndex_ne {c : Params} {j k : Nat} (hlt : j < k) (hfit : k < j + c.depth) :
    ringIndex c j ≠ ringIndex c k := by
  intro h
  have hdvd : c.depth ∣ k - j := (Nat.modEq_iff_dvd' hlt.le).1 h
  have := Nat.le_of_dvd (by omega) hdvd
  omega

/-- The ring index of a pointer kept modulo `2^(AW+1)` is that of its ghost (R63). -/
theorem ringIndex_mod (c : Params) (n : Nat) : ringIndex c (n % 2 ^ (c.aw + 1)) = ringIndex c n :=
  Nat.mod_mod_of_dvd n (pow_dvd_pow 2 (Nat.le_succ c.aw))

/-- Where `full_w` is false there is room for one more byte (R64, R67). -/
theorem QueueInv.room_of_not_full {s : State} (hs : QueueInv s) (hfull : fullW s = false) :
    s.ghost.pushes < s.ghost.ir + s.cfg.depth := by
  have hir : s.ghost.ir ≤ s.ghost.pushes :=
    hs.ir_le_pops.trans (hs.pops_le_iw.trans hs.iw_le_pushes)
  have hroom := hs.room
  have hpow : 2 ^ (s.cfg.aw + 1) = 2 * s.cfg.depth := Nat.pow_succ'
  have hpos : 0 < s.cfg.depth := Nat.two_pow_pos _
  rw [fullW, hs.wptr_eq, hs.rptrW_eq, modSub_mod _ _ _ hir (by omega)] at hfull
  have hne : s.ghost.pushes - s.ghost.ir ≠ s.cfg.depth := by simpa using hfull
  omega

/-- Where `empty_r` is false a byte is visible that is not popped (R65, R67). -/
theorem QueueInv.pops_lt_of_not_empty {s : State} (hs : QueueInv s) (he : emptyR s = false) :
    s.ghost.pops < s.ghost.iw := by
  refine lt_of_le_of_ne hs.pops_le_iw fun heq => ?_
  have hne : s.rx.rptr ≠ s.views.wptrR := by simpa [emptyR] using he
  exact hne (by rw [hs.rptr_eq, hs.wptrR_eq, heq])

/-- A pop of a queue that is not empty returns the oldest byte not popped (R62, R65). -/
theorem QueueInv.headByte_eq {s : State} (hs : QueueInv s) (he : emptyR s = false) :
    s.ghost.pushTrace[s.ghost.pops]? = some (headByte s) := by
  have hlt : s.ghost.pops < s.ghost.pushes :=
    (hs.pops_lt_of_not_empty he).trans_le hs.iw_le_pushes
  have hcell := hs.cells s.ghost.pops le_rfl hlt
  have hsome : s.ghost.pushTrace[s.ghost.pops]? =
      some (s.ghost.pushTrace[s.ghost.pops]'(by rw [hs.pushTrace_length]; exact hlt)) :=
    List.getElem?_eq_getElem _
  rw [hsome] at hcell ⊢
  rw [headByte, ringRead, hs.rptr_eq, ringIndex_mod, hcell, Option.getD_some]

/-- The state after `Push(b)` with its count, and with `lastByte` at any value (R64, R121). -/
def pushCounted (counted : Bool) (b last : Byte) (s : State) : State :=
  { noteCounted counted (pushByte b s) with
    w := { (pushByte b s).w with
      closed := if counted then modAdd s.cfg.cw s.w.closed 1 else s.w.closed
      lastByte := last } }

theorem ingestByte_eq_pushCounted {b : Byte} {s : State} (hh : writeHalted s = false)
    (hf : fullW s = false) : ingestByte b s = pushCounted (countedByte b s) b b s := by
  simp [ingestByte, hh, hf, pushCounted]

theorem noteCounted_pushByte_eq_pushCounted (b : Byte) (s : State) :
    noteCounted false (pushByte b s) = pushCounted false b s.w.lastByte s := rfl

/-- The count's ghost goes on rising in steps of at most one when a push notes its count (R38,
R121). -/
theorem cseq_rises_concat {cseq : List Nat} (h : cseq.IsChain fun a b => b = a ∨ b = a + 1)
    (counted : Bool) :
    (cseq ++ [cseq.getLastD 0 + counted.toNat]).IsChain fun a b => b = a ∨ b = a + 1 := by
  refine List.isChain_append.2 ⟨h, List.isChain_singleton _, fun x hx y hy => ?_⟩
  obtain rfl : cseq.getLastD 0 + counted.toNat = y := by simpa using hy
  rw [List.getLastD_eq_getLast?, Option.mem_def.1 hx, Option.getD_some]
  cases counted <;> simp

/-- A push into a queue that is not full keeps the invariant, counted or not (R64, R121). -/
theorem QueueInv.pushCounted {s : State} (hs : QueueInv s) (hfull : fullW s = false)
    (counted : Bool) (b last : Byte) : QueueInv (pushCounted counted b last s) := by
  have hroom := hs.room_of_not_full hfull
  have hir := hs.ir_le_pops
  have hlen := hs.cseq_length
  constructor
  case cfg_wf => exact hs.cfg_wf
  case wptr_eq => exact (congrArg (modAdd _ · 1) hs.wptr_eq).trans (modAdd_mod_one _ _)
  case rptr_eq => exact hs.rptr_eq
  case wptrR_eq => exact hs.wptrR_eq
  case rptrW_eq => exact hs.rptrW_eq
  case closed_eq =>
    cases counted with
    | false => simpa [Machine.pushCounted] using hs.closed_eq
    | true => simp [Machine.pushCounted, hs.closed_eq, modAdd_mod_one]
  case closedR_eq =>
    have hic : s.ghost.ic < s.ghost.cseq.length := by
      have := hs.ic_le_iw
      have := hs.iw_le_pushes
      omega
    exact hs.closedR_eq.trans (by simp [Machine.pushCounted, List.getElem?_append_left hic])
  case ic_le_iw => exact hs.ic_le_iw
  case iw_le_pushes => exact hs.iw_le_pushes.trans (Nat.le_succ _)
  case ir_le_pops => exact hir
  case pops_le_iw => exact hs.pops_le_iw
  case room => exact hroom
  case cseq_length => simp [Machine.pushCounted, hlen]
  case cseq_head => simp [Machine.pushCounted, hs.cseq_head]
  case cseq_rises => exact cseq_rises_concat hs.cseq_rises counted
  case pushTrace_length => simp [Machine.pushCounted, hs.pushTrace_length]
  case popTrace_eq =>
    have hle : s.ghost.pops ≤ s.ghost.pushTrace.length := by
      rw [hs.pushTrace_length]
      exact hs.pops_le_iw.trans hs.iw_le_pushes
    exact hs.popTrace_eq.trans (List.take_append_of_le_length hle).symm
  case cells =>
    intro k hk hk'
    change Memory.read (Memory.write s.w.ring (ringIndex s.cfg s.w.wptr) b) (ringIndex s.cfg k) =
      (s.ghost.pushTrace ++ [b])[k]?
    rw [hs.wptr_eq, ringIndex_mod]
    rcases Nat.lt_succ_iff_lt_or_eq.1 hk' with hlt | rfl
    · have hne : ringIndex s.cfg k ≠ ringIndex s.cfg s.ghost.pushes := by
        refine ringIndex_ne hlt ?_
        have : s.ghost.pops ≤ k := hk
        omega
      rw [Memory.read_write_other _ _ _ _ hne,
        List.getElem?_append_left (by rw [hs.pushTrace_length]; exact hlt)]
      exact hs.cells k hk hlt
    · rw [Memory.read_write_same, ← hs.pushTrace_length, List.getElem?_concat_length]

/-- A pop of a visible byte keeps the invariant (R65). -/
theorem QueueInv.popByte {s : State} (hs : QueueInv s) (he : emptyR s = false) :
    QueueInv (popByte s) where
  cfg_wf := hs.cfg_wf
  wptr_eq := hs.wptr_eq
  rptr_eq := (congrArg (modAdd _ · 1) hs.rptr_eq).trans (modAdd_mod_one _ _)
  wptrR_eq := hs.wptrR_eq
  rptrW_eq := hs.rptrW_eq
  closed_eq := hs.closed_eq
  closedR_eq := hs.closedR_eq
  ic_le_iw := hs.ic_le_iw
  iw_le_pushes := hs.iw_le_pushes
  ir_le_pops := hs.ir_le_pops.trans (Nat.le_succ _)
  pops_le_iw := hs.pops_lt_of_not_empty he
  room := hs.room
  cseq_length := hs.cseq_length
  cseq_head := hs.cseq_head
  cseq_rises := hs.cseq_rises
  pushTrace_length := hs.pushTrace_length
  popTrace_eq := by
    simp [hs.popTrace_eq, List.take_add_one, hs.headByte_eq he]
  cells k hk hk' := hs.cells k (Nat.le_of_succ_le hk) hk'

/-- A choice R74 admits for the write side's values seen by the host domain keeps the invariant. -/
theorem QueueInv.synW2r {s t : State} (hs : QueueInv s) {iw ic : Nat}
    (ha : w2rAdmits iw ic s = true)
    (ht : queueOf t = { queueOf s with
      wptrR := iw % 2 ^ (s.cfg.aw + 1)
      closedR := s.ghost.cseq.getD ic 0 % 2 ^ s.cfg.cw
      iw := iw, ic := ic }) : QueueInv t := by
  simp only [w2rAdmits, Bool.and_eq_true, decide_eq_true_eq] at ha
  obtain ⟨⟨⟨hiw, hle⟩, _⟩, hic⟩ := ha
  refine QueueInv.of_queueOf_eq (s := { s with
    views := { s.views with
      wptrR := iw % 2 ^ (s.cfg.aw + 1)
      closedR := s.ghost.cseq.getD ic 0 % 2 ^ s.cfg.cw }
    ghost := { s.ghost with iw := iw, ic := ic } }) ht ?_
  exact { hs with
    wptrR_eq := rfl
    closedR_eq := rfl
    ic_le_iw := hic
    iw_le_pushes := hle
    pops_le_iw := hs.pops_le_iw.trans hiw }

/-- A choice R74 admits for the read side's index seen by the write domain keeps the invariant. -/
theorem QueueInv.synR2w {s t : State} (hs : QueueInv s) {ir : Nat} (ha : r2wAdmits ir s = true)
    (ht : queueOf t = { queueOf s with rptrW := ir % 2 ^ (s.cfg.aw + 1), ir := ir }) :
    QueueInv t := by
  simp only [r2wAdmits, Bool.and_eq_true, decide_eq_true_eq] at ha
  obtain ⟨hir, hle⟩ := ha
  refine QueueInv.of_queueOf_eq (s := { s with
    views := { s.views with rptrW := ir % 2 ^ (s.cfg.aw + 1) }
    ghost := { s.ghost with ir := ir } }) ht ?_
  exact { hs with
    rptrW_eq := rfl
    ir_le_pops := hle
    room := hs.room.trans (Nat.add_le_add_right hir _) }

/-- The queue is empty after reset, in every legal configuration (R41). -/
theorem queueInv_resetFor {c : Params} (hc : c.wf = true) (e : Env) :
    QueueInv (State.resetFor c e) := by
  constructor
  case cfg_wf => exact hc
  case room => exact Nat.zero_le _
  case cseq_rises => exact List.isChain_singleton _
  case cells => exact fun k _ hk => absurd hk (Nat.not_lt_zero k)
  all_goals simp [State.resetFor, IngestRegs.reset, RxRegs.reset, Views.reset, Ghost.reset]

theorem AtomicStep.queueInv {edge : Option State} {s t : State} (h : AtomicStep edge s t)
    (hs : QueueInv s) : QueueInv t := by
  rcases h.queue_cases with h | ⟨b, hh, hf, rfl⟩ | ⟨he, h⟩ | ⟨iw, ic, ha, h⟩ | ⟨ir, ha, h⟩
  · exact hs.of_queueOf_eq h
  · rw [ingestByte_eq_pushCounted hh hf]
    exact hs.pushCounted hf _ b b
  · exact (hs.popByte he).of_queueOf_eq h
  · exact hs.synW2r ha h
  · exact hs.synR2w ha h

/-- Settles O13: whatever a step chains together keeps the invariant, an atomic step, a bare push or
a reset. -/
theorem stepKeepsQueueInv : Obligations.StepKeepsQueueInv := by
  intro s t hs h
  refine step_keeps QueueInv (fun edge s t hst hs => ?_) s t hs h
  cases hst with
  | atomic h => exact h.queueInv hs
  | push b _ hf =>
    rw [noteCounted_pushByte_eq_pushCounted]
    exact hs.pushCounted hf false b s.w.lastByte
  | reset _ _ => exact queueInv_resetFor hs.cfg_wf _

/-! ### The count's ghost (R122) -/

/-- The counting law of a stream with one more byte (R122). -/
theorem countedIn_concat (prev b : Byte) (bs : List Byte) :
    countedIn prev (bs ++ [b]) =
      countedIn prev bs + (b == terminator && bs.getLastD prev != terminator).toNat := by
  induction bs generalizing prev with
  | nil => simp [countedIn]
  | cons x xs ih =>
    simp only [List.cons_append, countedIn, ih, List.getLastD_cons, Nat.add_assoc]

/-- The last entry of the count's ghost is the count of everything pushed. -/
theorem CountInv.cseq_last {s : State} (hs : CountInv s) :
    s.ghost.cseq.getLastD 0 = countedIn terminator s.ghost.pushTrace := by
  rw [hs.cseq_eq, List.range_succ, List.map_append]
  simp

/-- An ingested byte extends the count's ghost by the counting law (R121, R122). -/
theorem CountInv.ingestByte {s : State} (hs : CountInv s) {b : Byte} (hh : writeHalted s = false)
    (hf : fullW s = false) : CountInv (ingestByte b s) := by
  rw [ingestByte_eq_pushCounted hh hf]
  have hcount : s.ghost.cseq.getLastD 0 + (countedByte b s).toNat =
      countedIn terminator (s.ghost.pushTrace ++ [b]) := by
    rw [countedIn_concat, hs.cseq_last, countedByte, hs.lastByte_eq]
  constructor
  case lastByte_eq => simp [pushCounted]
  case cseq_eq =>
    simp only [pushCounted, noteCounted_ghost, pushByte_ghost, hcount, List.length_append,
      List.length_singleton]
    rw [List.range_succ, List.map_append, hs.cseq_eq]
    congr 1
    · refine List.map_congr_left fun k hk => ?_
      have hk : k ≤ s.ghost.pushTrace.length := Nat.lt_succ_iff.1 (List.mem_range.1 hk)
      rw [List.take_append_of_le_length hk]
    · simp [List.take_of_length_le]

theorem AtomicStep.countInv {edge : Option State} {s t : State} (h : AtomicStep edge s t)
    (hs : CountInv s) : CountInv t := by
  have unmoved {q : QueuePart} (h : queueOf t = q) (hw : q.w = s.w) (hc : q.cseq = s.ghost.cseq)
      (hp : q.pushTrace = s.ghost.pushTrace) : CountInv t :=
    hs.of_eq ((congrArg QueuePart.w h).trans hw) ((congrArg QueuePart.cseq h).trans hc)
      ((congrArg QueuePart.pushTrace h).trans hp)
  rcases h.queue_cases with h | ⟨b, hh, hf, rfl⟩ | ⟨_, h⟩ | ⟨iw, ic, _, h⟩ | ⟨ir, _, h⟩
  · exact unmoved h rfl rfl rfl
  · exact hs.ingestByte hh hf
  · exact unmoved h rfl rfl rfl
  · exact unmoved h rfl rfl rfl
  · exact unmoved h rfl rfl rfl

/-- Nothing is counted after reset (R41). -/
theorem countInv_resetFor (c : Params) (e : Env) : CountInv (State.resetFor c e) := ⟨rfl, rfl⟩

/-- Where RESET completes, both domains are reset (R265, R267). -/
theorem eq_resetBlock_of_exec_reset {lines : ResetLines} {s t : State}
    (h : exec (.reset lines) s = .next t) : t = resetBlock s := by
  cases lines with
  | both =>
    simp only [exec, execReset] at h
    split at h
    · injection h with h
      exact h.symm
    · cases h
  | writeOnly => cases h
  | hostOnly => cases h

/-- Settles O18: a reset starts the count afresh, and every other operation is a chain of atomic
steps, each of which keeps the counting law. -/
theorem stepsKeepTheCount : Obligations.StepsKeepTheCount := by
  intro s t i _ hs hpush h
  by_cases hreset : ∀ l, i ≠ .reset l
  · exact exec_keeps CountInv (fun _ _ hst hs => hst.countInv hs) i s t hpush hreset hs h
  · simp only [ne_eq, not_forall, not_not] at hreset
    obtain ⟨lines, rfl⟩ := hreset
    rw [eq_resetBlock_of_exec_reset h]
    exact countInv_resetFor _ _

end Sys2Proof.Machine
end

section
/-! The encode engine across a step of the machine (spec/42_slip_encode.md,
spec/44_slipmux_encode.md): where its registers may stand in each of its states, how each emitting
step moves on from there, and that no other step but a start touches them (R248). -/

namespace Sys2Proof.Machine

/-! ### Where the engine stands -/

/-- `tx_hold` holds the second byte of an escape sequence (R140). -/
def heldByte (h : Byte) : Prop := h = escapedTerminator ∨ h = escapedEscape

/-- What `TxInv` asks of the engine's registers in the state they name. -/
def TxRegs.stands (r : TxRegs) : Prop :=
  match r.state with
  | .idle => r.idx ≤ r.len
  | .lead => r.idx = 0 ∧ r.done = false
  | .type => r.idx = 0 ∧ r.mode = .slipmux ∧ r.done = false
  | .pay => r.idx < r.len ∧ r.done = false
  | .pay2 => r.idx < r.len ∧ heldByte r.hold ∧ r.done = false
  | .clo => r.idx = r.len ∧ r.chk = true ∧ r.done = false
  | .clo2 => r.idx = r.len ∧ r.chk = true ∧ heldByte r.hold ∧ r.done = false
  | .chi => r.idx = r.len ∧ r.chk = true ∧ r.done = false
  | .chi2 => r.idx = r.len ∧ r.chk = true ∧ heldByte r.hold ∧ r.done = false
  | .trail => r.idx = r.len ∧ r.done = false

/-- The registers are where the rules put them: what a start sets for the whole call, and the place
in it. -/
structure TxRegs.Placed (c : Params) (r : TxRegs) : Prop where
  len_lt : r.len < 2 ^ c.lw
  chk_eq : r.chk = true → r.mode = .slipmux ∧ r.type = c.chkType
  mux_chk : r.mode = .slipmux → (r.chk = true ↔ r.type = c.chkType)
  stands : r.stands

/-- What the engine's registers satisfy in the state they are known to name. -/
theorem TxRegs.Placed.at_state {c : Params} {r : TxRegs} (h : r.Placed c) {st : TxState}
    (hst : r.state = st) : { r with state := st }.stands := by
  subst hst
  exact h.stands

theorem TxRegs.Placed.idx_le {c : Params} {r : TxRegs} (h : r.Placed c) : r.idx ≤ r.len := by
  have hstands := h.stands
  unfold TxRegs.stands at hstands
  split at hstands <;> omega

theorem TxRegs.Placed.not_done {c : Params} {r : TxRegs} (h : r.Placed c)
    (hbusy : r.state ≠ .idle) :
    r.done = false := by
  have hstands := h.stands
  unfold TxRegs.stands at hstands
  split at hstands <;> simp_all

/-- `TxInv` is a statement about the engine's registers in their configuration. -/
theorem txInv_iff_placed (s : State) : TxInv s ↔ s.tx.Placed s.cfg := by
  constructor
  · rintro ⟨hle, hlt, hbegin, hpay, hend, htype, hchk, hmux, hcheck, hhold, hdone⟩
    refine ⟨hlt, hchk, hmux, ?_⟩
    unfold TxRegs.stands
    cases hst : s.tx.state <;> simp_all [heldByte]
  · intro h
    exact
      { idx_le := h.idx_le
        len_lt := h.len_lt
        begin_idx := by rintro (e | e) <;> exact (h.at_state e).1
        pay_idx := by rintro (e | e) <;> exact (h.at_state e).1
        end_idx := by rintro (e | e | e | e | e) <;> exact (h.at_state e).1
        type_mode := fun e => (h.at_state e).2.1
        chk_eq := h.chk_eq
        mux_chk := h.mux_chk
        check_chk := by rintro (e | e | e | e) <;> exact (h.at_state e).2.1
        hold_eq := by
          rintro (e | e | e)
          · exact (h.at_state e).2.1
          · exact (h.at_state e).2.2.1
          · exact (h.at_state e).2.2.1
        busy_done := h.not_done }

/-! ### How it moves on -/

/-- A start places the engine before its first byte (R151, R181). -/
theorem placed_startTx (m : Mode) (q len : Nat) (ty : Byte) (s : State) :
    (startTx m q ty len s).tx.Placed s.cfg where
  len_lt := Nat.mod_lt _ (Nat.two_pow_pos _)
  chk_eq := by cases m <;> simp [startTx]
  mux_chk := by cases m <;> simp [startTx]
  stands := ⟨rfl, rfl⟩

/-- After `i` payload bytes the engine stands where `afterByte` sends it (R153). -/
theorem TxRegs.Placed.afterByte {c : Params} {r : TxRegs} (h : r.Placed c) {i : Nat}
    (hi : i ≤ r.len) (hdone : r.done = false) : { r with idx := i, state := afterByte r i }.Placed c := by
  refine ⟨h.len_lt, h.chk_eq, h.mux_chk, ?_⟩
  rcases afterByte_cases r i with ⟨hlt, he⟩ | ⟨hle, hchk, he⟩ | ⟨hle, _, he⟩ <;> simp only [he]
  · exact ⟨hlt, hdone⟩
  · exact ⟨hi.antisymm hle, hchk, hdone⟩
  · exact ⟨hi.antisymm hle, hdone⟩

/-- A payload byte done moves the index on within the length: it does not wrap (R40, R153). -/
theorem TxRegs.Placed.nextPayload {c : Params} {r : TxRegs} (h : r.Placed c) (hlt : r.idx < r.len)
    (hdone : r.done = false) : (nextPayload c r).Placed c := by
  have hidx : modAdd c.lw r.idx 1 = r.idx + 1 :=
    Nat.mod_eq_of_lt ((Nat.succ_le_of_lt hlt).trans_lt h.len_lt)
  rw [Machine.nextPayload, hidx]
  exact h.afterByte hlt hdone

/-- Folding a byte leaves the engine where it stands (R182). -/
theorem TxRegs.Placed.foldFcs {c : Params} {r : TxRegs} (h : r.Placed c) (b : Byte) :
    (foldFcs b r).Placed c := by
  rcases foldFcs_cases b r with ⟨_, he⟩ | ⟨_, he⟩ <;> rw [he]
  · exact { h with }
  · exact h

theorem foldFcs_state (b : Byte) (r : TxRegs) : (foldFcs b r).state = r.state := by
  rcases foldFcs_cases b r with ⟨_, he⟩ | ⟨_, he⟩ <;> rw [he]

/-- The first byte of an escape sequence is emitted: the engine waits with the second or is done
with the byte (R153, R184, R186). -/
theorem placed_stuffRegs {c : Params} {r : TxRegs} {second : TxState} {done : TxRegs → TxRegs}
    (p : Byte) (hsecond : ∀ h, heldByte h → { r with hold := h, state := second }.Placed c)
    (hdone : (done r).Placed c) : (stuffRegs p second done r).Placed c := by
  rcases stuffRegs_cases p second done r with ⟨_, he⟩ | ⟨_, he⟩ | ⟨_, _, he⟩ <;> rw [he]
  · exact hsecond _ (.inl rfl)
  · exact hsecond _ (.inr rfl)
  · exact hdone

theorem placed_leadStep {s : State} (h : s.tx.Placed s.cfg) (hst : s.tx.state = .lead) :
    (leadStep s).tx.Placed s.cfg := by
  obtain ⟨hidx, hdone⟩ := h.at_state hst
  refine ⟨h.len_lt, h.chk_eq, h.mux_chk, ?_⟩
  cases hm : s.tx.mode with
  | slipmux => simpa [leadStep, TxRegs.stands, hm] using ⟨hidx, hdone⟩
  | slip =>
    by_cases hlen : s.tx.len = 0
    · simpa [leadStep, TxRegs.stands, hm, hlen] using ⟨hidx, hdone⟩
    · have hlt : s.tx.idx < s.tx.len := by
        have : s.tx.idx = 0 := hidx
        omega
      simpa [leadStep, TxRegs.stands, hm, hlen] using ⟨hlt, hdone⟩

theorem placed_typeStep {s : State} (h : s.tx.Placed s.cfg) (hst : s.tx.state = .type) :
    (typeStep s).tx.Placed s.cfg := by
  obtain ⟨hidx, _, hdone⟩ := h.at_state hst
  have hidx : s.tx.idx = 0 := hidx
  have hnext := h.afterByte (Nat.zero_le _) hdone
  rw [← hidx] at hnext
  change { foldFcs s.tx.type s.tx with state := afterByte s.tx 0 }.Placed s.cfg
  rcases foldFcs_cases s.tx.type s.tx with ⟨_, he⟩ | ⟨_, he⟩ <;> rw [he, ← hidx]
  · exact { hnext with }
  · exact hnext

theorem placed_payStep {s : State} (h : s.tx.Placed s.cfg) (hst : s.tx.state = .pay) :
    (payStep s).tx.Placed s.cfg := by
  have hfold := h.foldFcs (payRead s s.tx.idx)
  obtain ⟨hlt, hdone⟩ := hfold.at_state ((foldFcs_state _ _).trans hst)
  refine placed_stuffRegs _ (fun b hb => ?_) (hfold.nextPayload hlt hdone)
  exact ⟨hfold.len_lt, hfold.chk_eq, hfold.mux_chk, hlt, hb, hdone⟩

theorem placed_pay2Step {s : State} (h : s.tx.Placed s.cfg) (hst : s.tx.state = .pay2) :
    (pay2Step s).tx.Placed s.cfg := by
  obtain ⟨hlt, _, hdone⟩ := h.at_state hst
  exact h.nextPayload hlt hdone

theorem placed_cloStep {s : State} (h : s.tx.Placed s.cfg) (hst : s.tx.state = .clo) :
    (cloStep s).tx.Placed s.cfg := by
  obtain ⟨hidx, hchk, hdone⟩ := h.at_state hst
  change (stuffRegs (fcsLow s.tx.fcs) .clo2 (fun r => { r with state := .chi }) s.tx).Placed s.cfg
  refine placed_stuffRegs _ (fun b hb => ?_) ?_
  · exact ⟨h.len_lt, h.chk_eq, h.mux_chk, hidx, hchk, hb, hdone⟩
  · exact ⟨h.len_lt, h.chk_eq, h.mux_chk, hidx, hchk, hdone⟩

theorem placed_clo2Step {s : State} (h : s.tx.Placed s.cfg) (hst : s.tx.state = .clo2) :
    (clo2Step s).tx.Placed s.cfg := by
  obtain ⟨hidx, hchk, _, hdone⟩ := h.at_state hst
  exact ⟨h.len_lt, h.chk_eq, h.mux_chk, hidx, hchk, hdone⟩

theorem placed_chiStep {s : State} (h : s.tx.Placed s.cfg) (hst : s.tx.state = .chi) :
    (chiStep s).tx.Placed s.cfg := by
  obtain ⟨hidx, hchk, hdone⟩ := h.at_state hst
  change
    (stuffRegs (fcsHigh s.tx.fcs) .chi2 (fun r => { r with state := .trail }) s.tx).Placed s.cfg
  refine placed_stuffRegs _ (fun b hb => ?_) ?_
  · exact ⟨h.len_lt, h.chk_eq, h.mux_chk, hidx, hchk, hb, hdone⟩
  · exact ⟨h.len_lt, h.chk_eq, h.mux_chk, hidx, hdone⟩

theorem placed_chi2Step {s : State} (h : s.tx.Placed s.cfg) (hst : s.tx.state = .chi2) :
    (chi2Step s).tx.Placed s.cfg := by
  obtain ⟨hidx, _, _, hdone⟩ := h.at_state hst
  exact ⟨h.len_lt, h.chk_eq, h.mux_chk, hidx, hdone⟩

theorem placed_trailStep {s : State} (h : s.tx.Placed s.cfg) (hst : s.tx.state = .trail) :
    (trailStep s).tx.Placed s.cfg := by
  obtain ⟨hidx, _⟩ := h.at_state hst
  exact ⟨h.len_lt, h.chk_eq, h.mux_chk, Nat.le_of_eq hidx⟩

/-- Each of the engine's own steps leaves it where the rules put it (R152 to R155, R183 to R187). -/
theorem placed_txStep {s : State} (h : s.tx.Placed s.cfg) : (txStep s).tx.Placed s.cfg := by
  unfold txStep
  cases hst : s.tx.state with
  | idle => exact h
  | lead => exact placed_leadStep h hst
  | type => exact placed_typeStep h hst
  | pay => exact placed_payStep h hst
  | pay2 => exact placed_pay2Step h hst
  | clo => exact placed_cloStep h hst
  | clo2 => exact placed_clo2Step h hst
  | chi => exact placed_chiStep h hst
  | chi2 => exact placed_chi2Step h hst
  | trail => exact placed_trailStep h hst

/-! ### What else can happen to it -/

@[simp] theorem ingestByte_cfg (b : Byte) (s : State) : (ingestByte b s).cfg = s.cfg := by
  rcases ingestByte_cases b s with ⟨_, h⟩ | ⟨_, _, h⟩ | ⟨_, _, h⟩ <;> simp [h]

@[simp] theorem ingestByte_tx (b : Byte) (s : State) : (ingestByte b s).tx = s.tx := by
  rcases ingestByte_cases b s with ⟨_, h⟩ | ⟨_, _, h⟩ | ⟨_, _, h⟩ <;> simp [h]

/-- No atomic step writes the configuration (R8). -/
theorem AtomicStep.cfg_eq {edge : Option State} {s t : State} (h : AtomicStep edge s t) :
    t.cfg = s.cfg := by
  cases h with
  | ingest b _ _ => exact ingestByte_cfg b s
  | ingestFull _ _ => exact raiseFatal_cfg _ s
  | timeout _ _ _ _ _ => exact raiseFatal_cfg _ s
  | tx _ => exact txStep_cfg s
  | rx _ => exact rxStep_cfg s
  | startRx _ _ _ _ _ => exact startRx_cfg _ _ _ _ _
  | grantRx _ _ _ => exact startRx_cfg _ _ _ _ _
  | tick _ _ _ => exact clkTimer_cfg _ _ _
  | _ => rfl

/-- Everything an atomic step can do to the encode engine: nothing, the engine's own step, or a
start. -/
theorem AtomicStep.tx_cases {edge : Option State} {s t : State} (h : AtomicStep edge s t) :
    t.tx = s.tx ∨ t = txStep s ∨
      ∃ m q ty len u, u.cfg = s.cfg ∧ t = Machine.startTx m q ty len u := by
  cases h with
  | tx _ => exact .inr (.inl rfl)
  | startTx q len p _ _ => exact .inr (.inr ⟨_, _, _, _, setTxPort q 0#8 len p s, rfl, rfl⟩)
  | grantTx q _ _ =>
    exact .inr (.inr ⟨_, _, _, _,
      { s with locks := { setRequest .tx q false s.locks with txLock := true } }, rfl, rfl⟩)
  | ingest b _ _ => exact .inl (ingestByte_tx b s)
  | ingestFull _ _ => exact .inl (raiseFatal_tx _ s)
  | timeout _ _ _ _ _ => exact .inl (raiseFatal_tx _ s)
  | rx _ => exact .inl (rxStep_tx s)
  | startRx _ _ _ _ _ => exact .inl (startRx_tx _ _ _ _ _)
  | grantRx _ _ _ => exact .inl (startRx_tx _ _ _ _ _)
  | tick _ _ _ => exact .inl (clkTimer_tx _ _ _)
  | _ => exact .inl rfl

/-- The engine is idle after reset, with nothing to emit (R41). -/
theorem txInv_resetFor (c : Params) (e : Env) : TxInv (State.resetFor c e) :=
  (txInv_iff_placed _).2 ⟨Nat.two_pow_pos _, nofun, nofun, Nat.le_refl 0⟩

theorem AtomicStep.txInv {edge : Option State} {s t : State} (h : AtomicStep edge s t)
    (hs : TxInv s) : TxInv t := by
  rw [txInv_iff_placed] at hs ⊢
  rw [h.cfg_eq]
  rcases h.tx_cases with he | rfl | ⟨m, q, ty, len, u, hcfg, rfl⟩
  · rw [he]; exact hs
  · exact placed_txStep hs
  · exact hcfg ▸ placed_startTx m q len ty u

/-- Settles O53: an atomic step keeps the engine in place, a bare push does not touch it, and a
reset leaves it idle. -/
theorem stepKeepsTxInv : Obligations.StepKeepsTxInv := by
  intro s t hs h
  refine step_keeps TxInv (fun edge s t hst hs => ?_) s t hs h
  cases hst with
  | atomic h => exact h.txInv hs
  | push b _ _ => exact (txInv_iff_placed _).2 ((txInv_iff_placed s).1 hs)
  | reset _ _ => exact txInv_resetFor _ _

end Sys2Proof.Machine
end

section
/-! The decode engine across a step of the machine (spec/43_slip_decode.md,
spec/45_slipmux_decode.md): what each of its sub-actions keeps of `RxInv`, and that no other step
but a start or a pop touches its registers (R248). -/

namespace Sys2Proof.Machine

theorem RxInv.of_eq {s t : State} (hcfg : t.cfg = s.cfg) (hrx : t.rx = s.rx)
    (hdst : t.ghost.dstTrace = s.ghost.dstTrace) (hs : RxInv s) : RxInv t := by
  cases hs
  constructor <;> (simp only [hcfg, hrx, hdst]; assumption)

/-! ### The engine's sub-actions -/

theorem RxInv.rcv_lt {s : State} (hs : RxInv s) : s.rx.rcv < 2 ^ s.cfg.lw :=
  hs.rcv_le.trans_lt hs.cap_lt

theorem RxInv.popByte {s : State} (hs : RxInv s) : RxInv (popByte s) := { hs with }

/-- While a call runs the engine may change its state (R162, R163, R166). -/
theorem RxInv.setState {s : State} (hs : RxInv s) (hdone : s.rx.done = false) (st : RxState) :
    RxInv { s with rx := { s.rx with state := st } } :=
  { hs with busy_done := fun _ => hdone }

/-- A result of a length that fits `LW` wires ends the call (R169, R202). -/
theorem RxInv.result {s : State} (hs : RxInv s) {n : Nat} (hn : n < 2 ^ s.cfg.lw) (c e : Bool) :
    RxInv (result n c e s) := by
  rcases result_cases n c e s with ⟨_, h⟩ | ⟨_, h⟩ <;> rw [h]
  · exact { hs with resLen_lt := hn, busy_done := fun hbusy => absurd rfl hbusy }
  · exact { hs with resLen_lt := hn, busy_done := fun hbusy => absurd rfl hbusy }

theorem RxInv.noise {s : State} (hs : RxInv s) : RxInv (noise s) := by
  rcases noise_cases s with ⟨_, h⟩ | ⟨hm, h⟩ <;> rw [h]
  · exact hs
  · exact { hs with
      mux_first := fun _ => rfl
      slip_first := fun hslip => nomatch hm.symm.trans hslip }

/-- A byte stored goes to the next offset, which is within the capacity and does not wrap (R40,
R168). -/
theorem RxInv.store {s : State} (hs : RxInv s) (d : Byte) : RxInv (store d s) := by
  rcases store_cases d s with ⟨hlt, h⟩ | ⟨_, h⟩ <;> rw [h]
  · have hnext : modAdd s.cfg.lw s.rx.rcv 1 = s.rx.rcv + 1 :=
      Nat.mod_eq_of_lt ((Nat.succ_le_of_lt hlt).trans_lt hs.cap_lt)
    exact { hs with
      rcv_le := hnext ▸ hlt
      offsets := by simp [hnext, hs.offsets, List.range_succ] }
  · exact hs

theorem RxInv.deliver {s : State} (hs : RxInv s) (d : Byte) : RxInv (deliver d s) := by
  rcases deliver_cases d s with ⟨hm, _, h⟩ | ⟨_, h⟩ <;> rw [h]
  · exact { hs with
      mux_first := fun _ => rfl
      slip_first := fun hslip => nomatch hm.symm.trans hslip }
  · exact hs.store d

theorem deliver_done (d : Byte) (s : State) : (deliver d s).rx.done = s.rx.done := by
  rcases deliver_cases d s with ⟨_, _, h⟩ | ⟨_, h⟩ <;> rw [h]
  rcases store_cases d s with ⟨_, h⟩ | ⟨_, h⟩ <;> rw [h]

/-- A completion reports no more than was stored (R165, R201). -/
theorem completedLength_le (s : State) : completedLength s ≤ s.rx.rcv := by
  unfold completedLength
  split
  · exact le_rfl
  · split
    · exact Nat.sub_le _ _
    · exact le_rfl

theorem RxInv.complete {s : State} (hs : RxInv s) : RxInv (complete s) :=
  RxInv.result (s := { s with rx := { s.rx with consumed := modAdd s.cfg.cw s.rx.consumed 1 } })
    { hs with consumed_lt := modAdd_lt _ _ _ } ((completedLength_le s).trans_lt hs.rcv_lt) _ _

theorem RxInv.escByte {s : State} (hs : RxInv s) (hdone : s.rx.done = false) (f : Byte) :
    RxInv (escByte f s) :=
  (hs.deliver (unesc f)).setState ((deliver_done _ s).trans hdone) .drain

/-- Each step of the decode engine keeps it within its capacity (R162 to R168, R199 to R202). -/
theorem RxInv.rxStep {s : State} (hs : RxInv s) : RxInv (rxStep s) := by
  have hdone (hbusy : s.rx.state ≠ .idle) : (Machine.popByte s).rx.done = false :=
    hs.busy_done hbusy
  unfold Machine.rxStep
  cases hst : s.rx.state with
  | idle => exact hs
  | drain =>
    rcases drainStep_cases s with ⟨_, _, h⟩ | ⟨_, _, h⟩ | ⟨_, _, _, h⟩ | ⟨_, _, _, h⟩ |
      ⟨_, _, h⟩ | ⟨_, _, _, h⟩ <;> simp only [h]
    · exact hs.result hs.rcv_lt _ _
    · exact hs.of_eq (raiseFatal_cfg _ s) (raiseFatal_rx _ s) (by rw [raiseFatal_ghost])
    · exact hs.popByte.complete
    · exact hs.popByte.noise
    · exact hs.popByte.setState (hdone (by simp [hst])) .esc
    · exact hs.popByte.deliver _
  | esc =>
    rcases escStep_cases s with ⟨_, h⟩ | ⟨_, h⟩ <;> simp only [h]
    · exact hs.result hs.rcv_lt _ _
    · exact hs.popByte.escByte (hdone (by simp [hst])) _

/-- A start sets a capacity that fits its wires and forgets the destination writes of the call
before (R161, R196). -/
theorem RxInv.startRegs {s : State} (hs : RxInv s) (m : Mode) (q cap : Nat) (st : DecodeState) :
    RxInv (startRegs m q cap st s) where
  cap_lt := Nat.mod_lt _ (Nat.two_pow_pos _)
  rcv_le := Nat.zero_le _
  resLen_lt := hs.resLen_lt
  consumed_lt := hs.consumed_lt
  mux_first := by cases m <;> simp [Machine.startRegs]
  slip_first := by cases m <;> simp [Machine.startRegs]
  busy_done _ := rfl
  offsets := rfl

theorem RxInv.startRx {s : State} (hs : RxInv s) (m : Mode) (q cap : Nat) (st : DecodeState) :
    RxInv (startRx m q cap st s) := by
  have hregs : RxInv (pulseGrant .rx q (Machine.startRegs m q cap st s)) :=
    { hs.startRegs m q cap st with }
  unfold Machine.startRx
  dsimp only
  split
  · exact hregs.result (Nat.two_pow_pos _) _ _
  · exact hregs.setState rfl .drain

/-! ### What else can happen to the engine -/

@[simp] theorem ingestByte_rx (b : Byte) (s : State) : (ingestByte b s).rx = s.rx := by
  rcases ingestByte_cases b s with ⟨_, h⟩ | ⟨_, _, h⟩ | ⟨_, _, h⟩ <;> simp [h]

@[simp] theorem ingestByte_dstTrace (b : Byte) (s : State) :
    (ingestByte b s).ghost.dstTrace = s.ghost.dstTrace := by
  rcases ingestByte_cases b s with ⟨_, h⟩ | ⟨_, _, h⟩ | ⟨_, _, h⟩ <;> simp [h]

@[simp] theorem txStep_dstTrace (s : State) : (txStep s).ghost.dstTrace = s.ghost.dstTrace := by
  unfold txStep
  cases s.tx.state <;> rfl

/-- Everything an atomic step can do to the decode engine and its destination: nothing, the engine's
own step, a bare pop, or a start. -/
theorem AtomicStep.rx_cases {edge : Option State} {s t : State} (h : AtomicStep edge s t) :
    (t.rx = s.rx ∧ t.ghost.dstTrace = s.ghost.dstTrace) ∨ t = rxStep s ∨ t = Machine.popByte s ∨
      ∃ m q cap st u, u.cfg = s.cfg ∧ u.rx = s.rx ∧ u.ghost = s.ghost ∧
        t = Machine.startRx m q cap st u := by
  cases h with
  | rx _ => exact .inr (.inl rfl)
  | pop _ _ _ => exact .inr (.inr (.inl rfl))
  | startRx q cap st _ _ => exact .inr (.inr (.inr ⟨_, q, cap, st, s, rfl, rfl, rfl, rfl⟩))
  | grantRx q _ _ =>
    exact .inr (.inr (.inr ⟨_, _, _, _,
      { s with locks := { setRequest .rx q false s.locks with rxLock := true } },
      rfl, rfl, rfl, rfl⟩))
  | ingest b _ _ => exact .inl ⟨ingestByte_rx b s, ingestByte_dstTrace b s⟩
  | ingestFull _ _ => exact .inl ⟨raiseFatal_rx _ s, by rw [raiseFatal_ghost]⟩
  | timeout _ _ _ _ _ => exact .inl ⟨raiseFatal_rx _ s, by rw [raiseFatal_ghost]⟩
  | tx _ => exact .inl ⟨txStep_rx s, txStep_dstTrace s⟩
  | tick _ _ _ => exact .inl ⟨clkTimer_rx _ _ _, by rw [clkTimer_ghost]⟩
  | _ => exact .inl ⟨rfl, rfl⟩

/-- The engine is idle after reset, with nothing stored (R41). -/
theorem rxInv_resetFor (c : Params) (e : Env) : RxInv (State.resetFor c e) where
  cap_lt := Nat.two_pow_pos _
  rcv_le := Nat.zero_le _
  resLen_lt := Nat.two_pow_pos _
  consumed_lt := Nat.two_pow_pos _
  mux_first := nofun
  slip_first _ := ⟨rfl, rfl⟩
  busy_done _ := rfl
  offsets := rfl

theorem AtomicStep.rxInv {edge : Option State} {s t : State} (h : AtomicStep edge s t)
    (hs : RxInv s) : RxInv t := by
  rcases h.rx_cases with ⟨hrx, hdst⟩ | rfl | rfl | ⟨m, q, cap, st, u, hcfg, hrx, hghost, rfl⟩
  · exact hs.of_eq h.cfg_eq hrx hdst
  · exact hs.rxStep
  · exact hs.popByte
  · exact (hs.of_eq hcfg hrx (by rw [hghost])).startRx m q cap st

/-- Settles O54: an atomic step keeps the engine within its capacity, a bare push does not touch it,
and a reset leaves it idle. -/
theorem stepKeepsRxInv : Obligations.StepKeepsRxInv := by
  intro s t hs h
  refine step_keeps RxInv (fun edge s t hst hs => ?_) s t hs h
  cases hst with
  | atomic h => exact h.rxInv hs
  | push b _ _ => exact { hs with }
  | reset _ _ => exact rxInv_resetFor _ _

end Sys2Proof.Machine
end

section
/-! The requester slots across a step of the machine (spec/10_state.md R33, R36;
spec/46_concurrency_guard.md R217, R218, R221): the part of the state `SlotInv` reads, and what each
post, start and tick does to it. -/

namespace Sys2Proof.Machine

/-! ### The slots' part of the state -/

/-- What `SlotInv` reads of a state. -/
structure SlotPart where
  cfg : Params
  txReq : List Bool
  rxReq : List Bool
  txWait : List Nat
  rxWait : List Nat
  txPorts : Nat
  rxPorts : Nat
  txOwner : Nat
  rxOwner : Nat

/-- The slots' part of a state. -/
def slotsOf (s : State) : SlotPart where
  cfg := s.cfg
  txReq := s.locks.txReq
  rxReq := s.locks.rxReq
  txWait := s.locks.txWait
  rxWait := s.locks.rxWait
  txPorts := s.env.txCmd.length
  rxPorts := s.env.rxCmd.length
  txOwner := s.tx.owner
  rxOwner := s.rx.owner

theorem SlotInv.of_slotsOf_eq {s t : State} (h : slotsOf t = slotsOf s) (hs : SlotInv s) :
    SlotInv t := by
  simp only [slotsOf, SlotPart.mk.injEq] at h
  obtain ⟨hcfg, htxReq, hrxReq, htxWait, hrxWait, htxPorts, hrxPorts, htxOwner, hrxOwner⟩ := h
  cases hs
  constructor <;>
    (simp only [hcfg, htxReq, hrxReq, htxWait, hrxWait, htxPorts, hrxPorts, htxOwner, hrxOwner]
     assumption)

/-! ### What leaves the slots alone -/

@[simp] theorem slotsOf_result (n : Nat) (c e : Bool) (s : State) :
    slotsOf (result n c e s) = slotsOf s := by
  rcases result_cases n c e s with ⟨_, h⟩ | ⟨_, h⟩ <;> simp only [h, slotsOf]

@[simp] theorem slotsOf_noise (s : State) : slotsOf (noise s) = slotsOf s := by
  rcases noise_cases s with ⟨_, h⟩ | ⟨_, h⟩ <;> simp only [h, slotsOf]

@[simp] theorem slotsOf_store (d : Byte) (s : State) : slotsOf (store d s) = slotsOf s := by
  rcases store_cases d s with ⟨_, h⟩ | ⟨_, h⟩ <;> simp only [h, slotsOf]

@[simp] theorem slotsOf_deliver (d : Byte) (s : State) : slotsOf (deliver d s) = slotsOf s := by
  rcases deliver_cases d s with ⟨_, _, h⟩ | ⟨_, h⟩ <;> rw [h]
  · rfl
  · exact slotsOf_store d s

@[simp] theorem slotsOf_complete (s : State) : slotsOf (complete s) = slotsOf s :=
  slotsOf_result _ _ _ _

@[simp] theorem slotsOf_escByte (f : Byte) (s : State) : slotsOf (escByte f s) = slotsOf s :=
  slotsOf_deliver (unesc f) s

@[simp] theorem slotsOf_raiseFatal (c : FatalCause) (s : State) :
    slotsOf (raiseFatal c s) = slotsOf s := by
  simp [slotsOf]

@[simp] theorem slotsOf_ingestByte (b : Byte) (s : State) :
    slotsOf (ingestByte b s) = slotsOf s := by
  rcases ingestByte_cases b s with ⟨_, h⟩ | ⟨_, _, h⟩ | ⟨_, _, h⟩ <;> rw [h]
  · exact slotsOf_raiseFatal _ s
  · rfl

@[simp] theorem slotsOf_rxStep (s : State) : slotsOf (rxStep s) = slotsOf s := by
  unfold rxStep
  cases s.rx.state with
  | idle => rfl
  | drain =>
    rcases drainStep_cases s with ⟨_, _, h⟩ | ⟨_, _, h⟩ | ⟨_, _, _, h⟩ | ⟨_, _, _, h⟩ |
      ⟨_, _, h⟩ | ⟨_, _, _, h⟩ <;> simp only [h]
    · exact slotsOf_result _ _ _ _
    · exact slotsOf_raiseFatal _ _
    · exact slotsOf_complete _
    · exact slotsOf_noise _
    · rfl
    · exact slotsOf_deliver _ _
  | esc =>
    rcases escStep_cases s with ⟨_, h⟩ | ⟨_, h⟩ <;> simp only [h]
    · exact slotsOf_result _ _ _ _
    · exact slotsOf_escByte _ _

theorem stuffRegs_owner {r : TxRegs} {done : TxRegs → TxRegs} (p : Byte) (second : TxState)
    (hdone : (done r).owner = r.owner) : (stuffRegs p second done r).owner = r.owner := by
  rcases stuffRegs_cases p second done r with ⟨_, h⟩ | ⟨_, h⟩ | ⟨_, _, h⟩ <;> rw [h]
  exact hdone

theorem foldFcs_owner (b : Byte) (r : TxRegs) : (foldFcs b r).owner = r.owner := by
  rcases foldFcs_cases b r with ⟨_, h⟩ | ⟨_, h⟩ <;> rw [h]

/-- An encode call belongs to its requester until it ends (R32). -/
@[simp] theorem txStep_owner (s : State) : (txStep s).tx.owner = s.tx.owner := by
  unfold txStep
  cases s.tx.state with
  | type => exact foldFcs_owner _ _
  | pay => exact (stuffRegs_owner _ _ rfl).trans (foldFcs_owner _ _)
  | clo => exact stuffRegs_owner (done := fun r => { r with state := .chi }) _ _ rfl
  | chi => exact stuffRegs_owner (done := fun r => { r with state := .trail }) _ _ rfl
  | _ => rfl

/-- The encode engine's own steps write no lock register but `txLock`, which the last one of a
SLIPMUX call frees (R220). -/
theorem txStep_locks_cases (s : State) :
    (txStep s).locks = s.locks ∨ (txStep s).locks = { s.locks with txLock := false } := by
  unfold txStep
  cases s.tx.state with
  | trail =>
    cases hm : s.tx.mode with
    | slip => exact .inl (by simp [trailStep, hm])
    | slipmux => exact .inr (by simp [trailStep, hm])
  | _ => exact .inl rfl

@[simp] theorem slotsOf_txStep (s : State) : slotsOf (txStep s) = slotsOf s := by
  rcases txStep_locks_cases s with h | h <;> simp [slotsOf, h]

/-! ### Posts, grants and starts -/

/-- Writing a slot's request bit clears its wait counter and keeps both lists' lengths (R217). -/
theorem SlotInv.setRequest {s : State} (hs : SlotInv s) (d : Dir) (q : Nat) (r : Bool) :
    SlotInv { s with locks := setRequest d q r s.locks } := by
  have cleared {l : List Nat} (hl : ∀ n ∈ l, n ≤ s.cfg.lockTimeout) :
      ∀ n ∈ l.set q 0, n ≤ s.cfg.lockTimeout := fun n hn =>
    (List.mem_or_eq_of_mem_set hn).elim (hl n) fun h => h ▸ Nat.zero_le _
  cases d with
  | tx =>
    exact { hs with
      txReq_length := (List.length_set ..).trans hs.txReq_length
      txWait_length := (List.length_set ..).trans hs.txWait_length
      txWait_le := cleared hs.txWait_le }
  | rx =>
    exact { hs with
      rxReq_length := (List.length_set ..).trans hs.rxReq_length
      rxWait_length := (List.length_set ..).trans hs.rxWait_length
      rxWait_le := cleared hs.rxWait_le }

theorem SlotInv.setTxPort {s : State} (hs : SlotInv s) (q : Nat) (ty : Byte) (len : Nat)
    (payload : List Byte) : SlotInv (setTxPort q ty len payload s) :=
  { hs with txCmd_length := (List.length_set ..).trans hs.txCmd_length }

theorem SlotInv.setRxPort {s : State} (hs : SlotInv s) (q cap : Nat) (st : DecodeState) :
    SlotInv (setRxPort q cap st s) :=
  { hs with rxCmd_length := (List.length_set ..).trans hs.rxCmd_length }

theorem SlotInv.setPayload {s : State} (hs : SlotInv s) (q : Nat) (bytes : List Byte) :
    SlotInv (setPayload q bytes s) :=
  { hs with txCmd_length := (List.length_modify ..).trans hs.txCmd_length }

theorem SlotInv.startTx {s : State} (hs : SlotInv s) {q : Nat} (hq : q < s.cfg.nreq) (m : Mode)
    (ty : Byte) (len : Nat) : SlotInv (startTx m q ty len s) :=
  { hs with tx_owner := hq }

theorem SlotInv.startRx {s : State} (hs : SlotInv s) {q : Nat} (hq : q < s.cfg.nreq) (m : Mode)
    (cap : Nat) (st : DecodeState) : SlotInv (startRx m q cap st s) := by
  have hregs : SlotInv (pulseGrant .rx q (startRegs m q cap st s)) := { hs with rx_owner := hq }
  unfold Machine.startRx
  dsimp only
  split
  · exact hregs.of_slotsOf_eq (slotsOf_result _ _ _ _)
  · exact { hregs with }

/-! ### The wait counters -/

theorem tickedWaits_length (waited : List (Dir × Nat)) (d : Dir) (s : State) :
    (tickedWaits waited d s).length = (waits d s).length :=
  List.length_mapIdx

/-- A counter that runs has not reached `LOCK_TIMEOUT`, since its request does not time out (R218,
R221). -/
theorem tickedWaits_le {waited asked : List (Dir × Nat)} {d : Dir} {s : State}
    (htimes : timesOut waited asked d s = false)
    (hle : ∀ n ∈ waits d s, n ≤ s.cfg.lockTimeout) :
    ∀ n ∈ tickedWaits waited d s, n ≤ s.cfg.lockTimeout := by
  intro n hn
  obtain ⟨q, hq, rfl⟩ := List.mem_mapIdx.1 hn
  have hold : (waits d s)[q] ≤ s.cfg.lockTimeout := hle _ (List.getElem_mem hq)
  split
  · rename_i hwaited
    have hp := List.any_eq_false.1 htimes (d, q) (List.contains_iff_mem.1 hwaited)
    have hne : (waits d s)[q] ≠ s.cfg.lockTimeout := fun heq => hp (by simp [hq, heq])
    exact Nat.succ_le_of_lt (hold.lt_of_ne hne)
  · exact hold

/-- The end of a cycle keeps every counter within `LOCK_TIMEOUT` (R218, R221). -/
theorem SlotInv.clkTimer {s : State} (hs : SlotInv s) (waited asked : List (Dir × Nat)) :
    SlotInv (clkTimer waited asked s) := by
  rcases clkTimer_cases waited asked s with ⟨_, h⟩ | ⟨d, _, _, h⟩ | ⟨_, htx, hrx, h⟩ <;> rw [h]
  · exact hs
  · exact hs.of_slotsOf_eq (slotsOf_raiseFatal _ _)
  · exact { hs with
      txWait_length := (tickedWaits_length waited .tx s).trans hs.txWait_length
      rxWait_length := (tickedWaits_length waited .rx s).trans hs.rxWait_length
      txWait_le := tickedWaits_le htx hs.txWait_le
      rxWait_le := tickedWaits_le hrx hs.rxWait_le }

/-! ### Reset and step -/

/-- After reset no slot waits, and the command ports are as `HOST` holds them (R41, R265). -/
theorem slotInv_resetFor {c : Params} (hc : c.wf = true) {e : Env} (htx : e.txCmd.length = c.nreq)
    (hrx : e.rxCmd.length = c.nreq) : SlotInv (State.resetFor c e) := by
  have hnreq : 0 < c.nreq := by
    simp only [Params.wf, Bool.and_eq_true, decide_eq_true_eq] at hc
    omega
  have zero_le : ∀ n ∈ List.replicate c.nreq 0, n ≤ c.lockTimeout := fun n hn =>
    (List.eq_of_mem_replicate hn) ▸ Nat.zero_le _
  exact
    { cfg_wf := hc
      txReq_length := List.length_replicate
      rxReq_length := List.length_replicate
      txWait_length := List.length_replicate
      rxWait_length := List.length_replicate
      txCmd_length := htx
      rxCmd_length := hrx
      tx_owner := hnreq
      rx_owner := hnreq
      txWait_le := zero_le
      rxWait_le := zero_le }

theorem AtomicStep.slotInv {edge : Option State} {s t : State} (h : AtomicStep edge s t)
    (hs : SlotInv s) : SlotInv t := by
  cases h with
  | startTx q len p hq _ => exact (hs.setTxPort q 0#8 len p).startTx hq _ _ _
  | startRx q cap st hq _ => exact hs.startRx hq _ _ _
  | postTx q ty len p _ _ _ => exact (hs.setRequest .tx q true).setTxPort q ty len p
  | postRx q cap st _ _ _ => exact (hs.setRequest .rx q true).setRxPort q cap st
  | grantTx q hq _ =>
    have hreq := hs.setRequest .tx q false
    exact SlotInv.startTx (s := { s with
      locks := { Machine.setRequest .tx q false s.locks with txLock := true } })
      { hreq with } hq _ _ _
  | grantRx q hq _ =>
    have hreq := hs.setRequest .rx q false
    exact SlotInv.startRx (s := { s with
      locks := { Machine.setRequest .rx q false s.locks with rxLock := true } })
      { hreq with } hq _ _ _
  | tick waited asked _ => exact hs.clkTimer waited asked
  | payload q bytes => exact hs.setPayload q bytes
  | ingest b _ _ => exact hs.of_slotsOf_eq (slotsOf_ingestByte b s)
  | ingestFull _ _ => exact hs.of_slotsOf_eq (slotsOf_raiseFatal _ s)
  | timeout _ _ _ _ _ => exact hs.of_slotsOf_eq (slotsOf_raiseFatal _ s)
  | tx _ => exact hs.of_slotsOf_eq (slotsOf_txStep s)
  | rx _ => exact hs.of_slotsOf_eq (slotsOf_rxStep s)
  | _ => exact { hs with }

/-- Settles O55: an atomic step keeps the slots, a bare push does not touch them, and a reset clears
the requests and leaves `HOST`'s ports. -/
theorem stepKeepsSlotInv : Obligations.StepKeepsSlotInv := by
  intro s t hs h
  refine step_keeps SlotInv (fun edge s t hst hs => ?_) s t hs h
  cases hst with
  | atomic h => exact h.slotInv hs
  | push b _ _ => exact { hs with }
  | reset _ _ => exact slotInv_resetFor hs.cfg_wf hs.txCmd_length hs.rxCmd_length

end Sys2Proof.Machine
end

section
/-! The state after reset (spec/10_state.md R41, spec/70_reset_and_hazards.md R265): its registers,
and that every invariant of the model holds of it. -/

namespace Sys2Proof.Machine

/-- Settles O6: the reset state is the record of the reset values, and no cell of its ring is
written. -/
theorem resetStateHasTheResetValues : Obligations.ResetStateHasTheResetValues :=
  ⟨fun _ _ => ⟨rfl, rfl, rfl, rfl, rfl, rfl, fun _ => rfl⟩,
    Config.sample, Env.reset Config.sample, rfl⟩

theorem ringInv_resetFor (c : Params) (e : Env) : RingInv (State.resetFor c e) :=
  ⟨State.resetFor_ring_wf c e, nofun⟩

theorem lockInv_resetFor (c : Params) (e : Env) : LockInv (State.resetFor c e) := by
  constructor <;> simp [State.resetFor, LockRegs.reset, TxRegs.reset, RxRegs.reset]

theorem faultViewInv_resetFor (c : Params) (e : Env) : FaultViewInv (State.resetFor c e) :=
  ⟨nofun, nofun⟩

/-- Settles O15: the invariants' lemmas about `State.resetFor`, put together; the sample
configuration is legal. -/
theorem resetHasEveryInvariant : Obligations.ResetHasEveryInvariant := by
  refine ⟨fun c hc => ?_, Config.sample, by decide, rfl⟩
  exact ⟨queueInv_resetFor hc _, ringInv_resetFor c _, lockInv_resetFor c _, txInv_resetFor c _,
    rxInv_resetFor c _, slotInv_resetFor hc List.length_replicate List.length_replicate,
    countInv_resetFor c _, faultViewInv_resetFor c _⟩

end Sys2Proof.Machine
end

section
/-! The ring's storage, the primitives `PUSH` and `POP`, the queue's flags and the synchronisers
(spec/20_memory.md R60 to R67, R74, R75): each operation alone, and what no step breaks. -/

namespace Sys2Proof.Machine

/-! ### The storage across a step (R60, R63) -/

/-- The storage's invariant reads the configuration and the ring only. -/
theorem RingInv.of_eq {s t : State} (hcfg : t.cfg = s.cfg) (hw : t.w = s.w) (hs : RingInv s) :
    RingInv t where
  canonical := hw ▸ hs.canonical
  inside := hw ▸ hcfg ▸ hs.inside

/-- A ring index is below `DEPTH` (R63). -/
theorem ringIndex_lt (c : Params) (p : Nat) : ringIndex c p < c.depth :=
  Nat.mod_lt p (Nat.two_pow_pos c.aw)

/-- A push writes one cell, inside the ring (R63, R64). -/
theorem RingInv.pushCounted {s : State} (hs : RingInv s) (counted : Bool) (b last : Byte) :
    RingInv (pushCounted counted b last s) where
  canonical := Memory.wf_write _ _ _ hs.canonical
  inside c hc := by
    rcases Memory.mem_write _ _ _ c hc with rfl | hold
    · exact ringIndex_lt s.cfg s.w.wptr
    · exact hs.inside c hold

theorem AtomicStep.ringInv {edge : Option State} {s t : State} (hstep : AtomicStep edge s t)
    (hs : RingInv s) : RingInv t := by
  rcases hstep.queue_cases with h | ⟨b, hh, hf, rfl⟩ | ⟨_, h⟩ | ⟨iw, ic, _, h⟩ | ⟨ir, _, h⟩
  · exact hs.of_eq hstep.cfg_eq (congrArg QueuePart.w h)
  · rw [ingestByte_eq_pushCounted hh hf]
    exact hs.pushCounted _ b b
  · exact hs.of_eq hstep.cfg_eq (congrArg QueuePart.w h)
  · exact hs.of_eq hstep.cfg_eq (congrArg QueuePart.w h)
  · exact hs.of_eq hstep.cfg_eq (congrArg QueuePart.w h)

/-- Settles O14: only a push writes the storage, and inside the ring; a reset empties it. -/
theorem stepKeepsRingInv : Obligations.StepKeepsRingInv := by
  intro s t hs h
  refine step_keeps RingInv (fun edge s t hst hs => ?_) s t hs h
  cases hst with
  | atomic h => exact h.ringInv hs
  | push b _ _ =>
    rw [noteCounted_pushByte_eq_pushCounted]
    exact hs.pushCounted false b s.w.lastByte
  | reset _ _ => exact ringInv_resetFor _ _

/-! ### `PUSH` and `POP` alone (R64, R65, R223) -/

/-- `PUSH` with its precondition is `Push(b)` and an uncounted entry of `cseq` (R64, log 11). -/
theorem exec_push_of_room {s : State} {b : Byte} (hh : writeHalted s = false)
    (hf : fullW s = false) : exec (.push b) s = .next (noteCounted false (pushByte b s)) := by
  simp [exec, execPush, hh, hf]

/-- `PUSH` without its precondition is no step (log 5). -/
theorem exec_push_of_blocked {s : State} (b : Byte) (h : writeHalted s = true ∨ fullW s = true) :
    exec (.push b) s = .next s :=
  congrArg Host.Outcome.next (if_pos (Bool.or_eq_true_iff.2 h))

/-- `POP` with its precondition, where no call holds the receive lock, is `Pop()` (R65, R223). -/
theorem exec_pop_of_visible {s : State} (hh : hostHalted s = false) (hl : s.locks.rxLock = false)
    (he : emptyR s = false) : exec .pop s = .next (popByte s) := by
  simp [exec, execPop, hh, hl, he]

/-- `POP` without its precondition, or under the receive lock, is no step (R223, log 5). -/
theorem exec_pop_of_blocked {s : State}
    (h : hostHalted s = true ∨ s.locks.rxLock = true ∨ emptyR s = true) :
    exec .pop s = .next s := by
  refine congrArg Host.Outcome.next (if_pos ?_)
  rw [Bool.or_eq_true_iff, Bool.or_eq_true_iff, or_assoc]
  exact h

/-- The write domain is halted by its own fault or one it has learned of (R241). -/
theorem writeHalted_eq_true_iff (s : State) :
    writeHalted s = true ↔ s.faults.wfault = true ∨ s.views.hfaultW = true :=
  Bool.or_eq_true_iff

/-- Settles O12: the four cases of the two primitives; the records are those `pushByte`,
`noteCounted` and `popByte` build. -/
theorem pushAndPopMoveOneByte : Obligations.PushAndPopMoveOneByte := by
  refine ⟨fun s b => ⟨fun hw hv hf => ?_, fun h => ?_⟩, fun s => ⟨fun hh hl he => ?_, fun h => ?_⟩⟩
  · have hh : writeHalted s = false := Bool.or_eq_false_iff.2 ⟨hw, hv⟩
    exact exec_push_of_room hh hf
  · rw [← or_assoc, ← writeHalted_eq_true_iff] at h
    exact exec_push_of_blocked b h
  · exact exec_pop_of_visible hh hl he
  · exact exec_pop_of_blocked h

/-! ### The flags in ghost terms (R66, R67) -/

/-- `empty_r` is exact in the host domain's view: nothing visible is unpopped (R67). -/
theorem QueueInv.emptyR_iff {s : State} (hs : QueueInv s) :
    emptyR s = true ↔ s.ghost.pops = s.ghost.iw := by
  constructor
  · intro he
    have hptr : s.rx.rptr = s.views.wptrR := beq_iff_eq.1 he
    rw [hs.rptr_eq, hs.wptrR_eq] at hptr
    have hdvd : 2 ^ (s.cfg.aw + 1) ∣ s.ghost.iw - s.ghost.pops :=
      (Nat.modEq_iff_dvd' hs.pops_le_iw).1 hptr
    have hpow : 2 ^ (s.cfg.aw + 1) = 2 * s.cfg.depth := Nat.pow_succ'
    have hpos : 0 < s.cfg.depth := Nat.two_pow_pos _
    have hzero : s.ghost.iw - s.ghost.pops = 0 := by
      refine Nat.eq_zero_of_dvd_of_lt hdvd ?_
      have := hs.iw_le_pushes
      have := hs.room
      have := hs.ir_le_pops
      omega
    have := hs.pops_le_iw
    omega
  · intro heq
    by_contra he
    have := hs.pops_lt_of_not_empty (Bool.eq_false_iff.2 he)
    omega

/-- `full_w` is exact in the write domain's view: `DEPTH` bytes not seen to be popped (R67). -/
theorem QueueInv.fullW_iff {s : State} (hs : QueueInv s) :
    fullW s = true ↔ s.ghost.pushes - s.ghost.ir = s.cfg.depth := by
  have hir : s.ghost.ir ≤ s.ghost.pushes :=
    hs.ir_le_pops.trans (hs.pops_le_iw.trans hs.iw_le_pushes)
  have hroom := hs.room
  have hpow : 2 ^ (s.cfg.aw + 1) = 2 * s.cfg.depth := Nat.pow_succ'
  have hpos : 0 < s.cfg.depth := Nat.two_pow_pos _
  rw [fullW, hs.wptr_eq, hs.rptrW_eq, modSub_mod _ _ _ hir (by omega), beq_iff_eq]

/-- Settles O16: both flags are exact in their view, and the views lie between what was pushed and
what was popped, so a truly empty or truly full queue shows as such. -/
theorem emptyAndFullMeasureTheQueue : Obligations.EmptyAndFullMeasureTheQueue := by
  intro s hs
  have hpops := hs.pops_le_iw
  have hiw := hs.iw_le_pushes
  have hir := hs.ir_le_pops
  have hroom := hs.room
  refine ⟨beq_iff_eq, hs.emptyR_iff, hs.fullW_iff, fun hempty => ?_, fun hfull => ?_⟩
  · rw [hs.emptyR_iff]; omega
  · rw [hs.fullW_iff]; omega

/-! ### The byte a pop returns (R62, R65, R75) -/

/-- `R_DRAIN` on a queue that is not empty pops, whatever the byte (R162). -/
theorem queueOf_drainStep_of_not_empty {s : State} (he : emptyR s = false) :
    queueOf (drainStep s) = queueOf (popByte s) := by
  rcases drainStep_cases s with ⟨h, _⟩ | ⟨h, _⟩ | ⟨_, _, _, h⟩ | ⟨_, _, _, h⟩ | ⟨_, _, h⟩ |
    ⟨_, _, _, h⟩
  · exact absurd h (Bool.eq_false_iff.1 he)
  · exact absurd h (Bool.eq_false_iff.1 he)
  · rw [h, queueOf_complete]
  · rw [h, queueOf_noise]
  · rw [h]; rfl
  · rw [h, queueOf_deliver]

/-- `R_ESC` on a queue that is not empty pops, whatever the byte (R166). -/
theorem queueOf_escStep_of_not_empty {s : State} (he : emptyR s = false) :
    queueOf (escStep s) = queueOf (popByte s) := by
  rcases escStep_cases s with ⟨h, _⟩ | ⟨_, h⟩
  · exact absurd h (Bool.eq_false_iff.1 he)
  · rw [h, queueOf_escByte]

/-- An operation that moves the queue as `Pop()` does completes, returns the head and advances
`Rn`. -/
theorem exists_next_of_queueOf_eq_popByte {i : Instr} {s t : State} (h : exec i s = .next t)
    (hq : queueOf t = queueOf (popByte s)) :
    ∃ u, exec i s = .next u ∧ u.ghost.popTrace = s.ghost.popTrace ++ [headByte s] ∧
      u.ghost.pops = s.ghost.pops + 1 :=
  ⟨t, h, congrArg QueuePart.popTrace hq, congrArg QueuePart.pops hq⟩

/-- `R_DRAIN` in its state, with no fault, is the engine's drain step (R162). -/
theorem exec_rDrain_of_drain {s : State} (hst : s.rx.state = .drain) (hh : hostHalted s = false) :
    exec .rDrain s = .next (drainStep s) := by
  simp [exec, execRDrain, rxAt, hst, hh]

/-- `R_ESC` in its state, with no fault, is the engine's escape step (R166). -/
theorem exec_rEsc_of_esc {s : State} (hst : s.rx.state = .esc) (hh : hostHalted s = false) :
    exec .rEsc s = .next (escStep s) := by
  simp [exec, execREsc, rxAt, hst, hh]

/-- Settles O17: the byte next to be popped is the head, which the queue's invariant ties to the
push of the same number; each of the three steps moves the queue as `Pop()` does. -/
theorem popReturnsThePushedByte : Obligations.PopReturnsThePushedByte := by
  intro s hs hh he
  refine ⟨headByte s, hs.headByte_eq he, fun hl => ?_, fun hst => ?_, fun hst => ?_⟩
  · exact exists_next_of_queueOf_eq_popByte (exec_pop_of_visible hh hl he) rfl
  · exact exists_next_of_queueOf_eq_popByte (exec_rDrain_of_drain hst hh)
      (queueOf_drainStep_of_not_empty he)
  · exact exists_next_of_queueOf_eq_popByte (exec_rEsc_of_esc hst hh)
      (queueOf_escStep_of_not_empty he)

/-! ### The synchronisers (R74, R241) -/

/-- The choices of `SYN_W2R` that R74 admits. -/
theorem w2rAdmits_iff {iw ic : Nat} {s : State} :
    w2rAdmits iw ic s = true ↔
      s.ghost.iw ≤ iw ∧ iw ≤ s.ghost.pushes ∧ s.ghost.ic ≤ ic ∧ ic ≤ iw := by
  simp only [w2rAdmits, Bool.and_eq_true, decide_eq_true_eq, and_assoc]

/-- The choices of `SYN_R2W` that R74 admits. -/
theorem r2wAdmits_iff {ir : Nat} {s : State} :
    r2wAdmits ir s = true ↔ s.ghost.ir ≤ ir ∧ ir ≤ s.ghost.pops := by
  simp only [r2wAdmits, Bool.and_eq_true, decide_eq_true_eq]

/-- Settles O19: each synchroniser's one test decides its two cases; `SYN_FAULT` tests nothing. -/
theorem synchronisersTakeTheChoice : Obligations.SynchronisersTakeTheChoice := by
  refine ⟨fun s iw ic => ⟨fun ha => ?_, fun ha => ?_⟩, fun s ir => ⟨fun ha => ?_, fun ha => ?_⟩,
    fun s => ⟨rfl, fun hf => ?_, fun hf => ?_⟩⟩
  · exact congrArg Host.Outcome.next (if_pos (w2rAdmits_iff.2 ha))
  · exact congrArg Host.Outcome.next (if_neg (mt w2rAdmits_iff.1 ha))
  · exact congrArg Host.Outcome.next (if_pos (r2wAdmits_iff.2 ha))
  · exact congrArg Host.Outcome.next (if_neg (mt r2wAdmits_iff.1 ha))
  · have hbit : (s.faults.hfault != .none) = false := bne_eq_false_iff_eq.2 hf
    rw [← hbit]; rfl
  · have hbit : (s.faults.hfault != .none) = true := bne_iff_ne.2 hf
    rw [← hbit]; rfl

/-! ### The views' order (R74) -/

/-- No view of `t` stands before the same view of `s`. -/
def ViewsForward (s t : State) : Prop :=
  s.ghost.iw ≤ t.ghost.iw ∧ s.ghost.ic ≤ t.ghost.ic ∧ s.ghost.ir ≤ t.ghost.ir

theorem ViewsForward.trans {s t u : State} (hst : ViewsForward s t) (htu : ViewsForward t u) :
    ViewsForward s u := by
  obtain ⟨hiw, hic, hir⟩ := hst
  obtain ⟨hiw', hic', hir'⟩ := htu
  exact ⟨hiw.trans hiw', hic.trans hic', hir.trans hir'⟩

/-- A step that leaves the views' ghosts alone moves no view back. -/
theorem ViewsForward.of_queuePart {s t : State} {q : QueuePart} (h : queueOf t = q)
    (hiw : q.iw = s.ghost.iw) (hic : q.ic = s.ghost.ic) (hir : q.ir = s.ghost.ir) :
    ViewsForward s t := by
  subst h
  exact ⟨hiw.ge, hic.ge, hir.ge⟩

/-- Only the synchronisers move a view, and R74 admits no choice before the view's place. -/
theorem AtomicStep.viewsForward {edge : Option State} {s t : State} (h : AtomicStep edge s t) :
    ViewsForward s t := by
  rcases h.queue_cases with h | ⟨b, hh, hf, rfl⟩ | ⟨_, h⟩ | ⟨iw, ic, ha, h⟩ | ⟨ir, ha, h⟩
  · exact .of_queuePart h rfl rfl rfl
  · rw [ingestByte_eq_pushCounted hh hf]
    exact .of_queuePart rfl rfl rfl rfl
  · exact .of_queuePart h rfl rfl rfl
  · obtain ⟨hiw, _, hic, _⟩ := w2rAdmits_iff.1 ha
    exact ⟨hiw.trans_eq (congrArg QueuePart.iw h).symm, hic.trans_eq (congrArg QueuePart.ic h).symm,
      (congrArg QueuePart.ir h).ge⟩
  · obtain ⟨hir, _⟩ := r2wAdmits_iff.1 ha
    exact ⟨(congrArg QueuePart.iw h).ge, (congrArg QueuePart.ic h).ge,
      hir.trans_eq (congrArg QueuePart.ir h).symm⟩

/-- Settles O20: an operation but RESET is a chain of atomic steps and bare pushes, and no link of
it moves a view back. -/
theorem viewsOnlyMoveForward : Obligations.ViewsOnlyMoveForward := by
  intro s t i hreset h
  have hchain : Relation.ReflTransGen (AnyStep none False) s t :=
    exec_anyChain i s t (.inl rfl) (fun l hl => hreset l hl) h
  change ViewsForward s t
  clear h
  induction hchain with
  | refl => exact ⟨le_rfl, le_rfl, le_rfl⟩
  | tail _ hlink ih =>
    refine ih.trans ?_
    cases hlink with
    | atomic hatomic => exact hatomic.viewsForward
    | push _ _ _ => exact .of_queuePart rfl rfl rfl rfl
    | reset hno _ => exact hno.elim

end Sys2Proof.Machine
end

section
/-! The decoder and the encoder (spec/30_encoding.md R91, R100, R101, R104): what the decoder reads from
each format, that it undoes the encoder, and that it follows the opcode table. -/

namespace Sys2Proof

/-! ### What the decoder reads, per format -/

theorem decode_txCommand_ok_iff {c : Params} {q len : Nat} {mode : BitVec 1} {t : Byte}
    {p : List Byte} {i : Instr} :
    decode c (.txCommand q mode t len p) = .ok i ↔ (slotOk c q = true ∧ fitsLw c len = true) ∧
      (if mode = 0#1 then .slipEnc q len p else .smxEnc q t len p) = i := by
  rw [decode]
  cases slotOk c q <;> cases fitsLw c len <;> by_cases hm : mode = 0#1 <;> simp [hm]

theorem decode_rxCommand_ok_iff {c : Params} {q cap : Nat} {mode : BitVec 1} {st : DecodeState}
    {i : Instr} :
    decode c (.rxCommand q mode cap st) = .ok i ↔ (slotOk c q = true ∧ fitsLw c cap = true) ∧
      (if mode = 0#1 then .slipDec q cap else .smxDec q cap st) = i := by
  rw [decode]
  cases slotOk c q <;> cases fitsLw c cap <;> by_cases hm : mode = 0#1 <;> simp [hm]

theorem decode_lockGrant_ok_iff {c : Params} {d : Dir} {q : Nat} {i : Instr} :
    decode c (.internalStep (.lockGrant d q)) = .ok i ↔ slotOk c q = true ∧ .lockGrant d q = i := by
  rw [decode, decodeInternal]
  cases slotOk c q <;> simp

theorem decode_lockTimeout_ok_iff {c : Params} {d : Dir} {q : Nat} {i : Instr} :
    decode c (.internalStep (.lockTimeout d q)) = .ok i ↔
      slotOk c q = true ∧ .lockTimeout d q = i := by
  rw [decode, decodeInternal]
  cases slotOk c q <;> simp

theorem decode_ingestByte_of_ne {c : Params} {b : Byte} (h : b ≠ terminator) :
    decode c (.ingestByte b) = .ok (.ingestOther b) := if_neg h

theorem decode_rxDrainByte_of_ne {c : Params} {b : Byte} (h : b ≠ terminator) (h' : b ≠ escape) :
    decode c (.rxDrainByte b) = .ok (.drainOther b) := (if_neg h).trans (if_neg h')

theorem decode_rxEscByte_of_ne {c : Params} {f : Byte} (h : f ≠ escapedTerminator)
    (h' : f ≠ escapedEscape) : decode c (.rxEscByte f) = .ok (.escOther f) :=
  (if_neg h).trans (if_neg h')

theorem decode_txPayloadByte_of_ne {c : Params} {p : Byte} (h : p ≠ terminator) (h' : p ≠ escape) :
    decode c (.txPayloadByte p) = .ok (.stuffOther p) := (if_neg h).trans (if_neg h')

theorem decode_typeClass_of_eq {c : Params} {d : Dir} {t : Byte} (h : t = c.chkType) :
    decode c (.typeClass d t) = .ok (.typeChecksum d t) := if_pos h

theorem decode_typeClass_of_ne {c : Params} {d : Dir} {t : Byte} (h : t ≠ c.chkType) :
    decode c (.typeClass d t) = .ok (.typePlain d t) := if_neg h

theorem wf_and_encode_of_decodeTxStep {c : Params} {v : BitVec 4} {i : Instr}
    (h : decodeTxStep v = .ok i) : i.wf c = true ∧ encode i = .txStep v := by
  rw [decodeTxStep] at h
  split at h <;> cases h <;>
    exact ⟨rfl, congrArg PortWord.txStep (BitVec.eq_of_toNat_eq (Eq.symm ‹_›))⟩

theorem wf_and_encode_of_decodeRxStep {c : Params} {v : BitVec 2} {i : Instr}
    (h : decodeRxStep v = .ok i) : i.wf c = true ∧ encode i = .rxStep v := by
  rw [decodeRxStep] at h
  split at h <;> cases h <;>
    exact ⟨rfl, congrArg PortWord.rxStep (BitVec.eq_of_toNat_eq (Eq.symm ‹_›))⟩

/-- A requester's slot is all that an internal step can get wrong (R100). -/
theorem wf_and_encode_of_decodeInternal {c : Params} {n : InternalStep} {i : Instr}
    (h : decode c (.internalStep n) = .ok i) : i.wf c = true ∧ encode i = .internalStep n := by
  cases n with
  | lockGrant d q => obtain ⟨hq, rfl⟩ := decode_lockGrant_ok_iff.1 h; exact ⟨hq, rfl⟩
  | lockTimeout d q => obtain ⟨hq, rfl⟩ := decode_lockTimeout_ok_iff.1 h; exact ⟨hq, rfl⟩
  | _ => cases h; exact ⟨rfl, rfl⟩

/-! ### The decoder and the encoder undo each other -/

/-- A port word with zeros on the ports that a plain command leaves unread (U24), as `encode` writes
them. -/
def PortWord.clearUnread : PortWord → PortWord
  | .txCommand q mode t len p => .txCommand q mode (if mode = 0#1 then 0#8 else t) len p
  | .rxCommand q mode cap st =>
    .rxCommand q mode cap
      (if mode = 0#1 then { typeValid := false, type := 0#8, pending := false } else st)
  | pw => pw

@[simp] theorem PortWord.format_clearUnread (pw : PortWord) : pw.clearUnread.format = pw.format := by
  cases pw <;> rfl

@[simp] theorem PortWord.bits_clearUnread (pw : PortWord) : pw.clearUnread.bits = pw.bits := by
  cases pw <;> rfl

/-- What the decoder accepts is well-formed, and its port word is the one decoded, but for the ports
that a plain command leaves unread. -/
theorem wf_and_encode_of_decode {c : Params} {pw : PortWord} {i : Instr} (h : decode c pw = .ok i) :
    i.wf c = true ∧ encode i = pw.clearUnread := by
  cases pw with
  | ingestPort v b => cases v <;> cases h; exact ⟨rfl, rfl⟩
  | txCommand q mode t len p =>
    obtain ⟨⟨hq, hlen⟩, rfl⟩ := decode_txCommand_ok_iff.1 h
    obtain rfl | rfl := BitVec.eq_zero_or_eq_one mode <;>
      exact ⟨Bool.and_eq_true_iff.2 ⟨hq, hlen⟩, rfl⟩
  | rxCommand q mode cap st =>
    obtain ⟨⟨hq, hcap⟩, rfl⟩ := decode_rxCommand_ok_iff.1 h
    obtain rfl | rfl := BitVec.eq_zero_or_eq_one mode <;>
      exact ⟨Bool.and_eq_true_iff.2 ⟨hq, hcap⟩, rfl⟩
  | ingestByte b =>
    by_cases ht : b = terminator
    · subst ht; cases h; exact ⟨rfl, rfl⟩
    · rw [decode_ingestByte_of_ne ht] at h; cases h
      exact ⟨bne_iff_ne.2 ht, rfl⟩
  | rxDrainByte b =>
    by_cases ht : b = terminator
    · subst ht; cases h; exact ⟨rfl, rfl⟩
    by_cases he : b = escape
    · subst he; cases h; exact ⟨rfl, rfl⟩
    rw [decode_rxDrainByte_of_ne ht he] at h; cases h
    exact ⟨Bool.and_eq_true_iff.2 ⟨bne_iff_ne.2 ht, bne_iff_ne.2 he⟩, rfl⟩
  | rxEscByte f =>
    by_cases ht : f = escapedTerminator
    · subst ht; cases h; exact ⟨rfl, rfl⟩
    by_cases he : f = escapedEscape
    · subst he; cases h; exact ⟨rfl, rfl⟩
    rw [decode_rxEscByte_of_ne ht he] at h; cases h
    exact ⟨Bool.and_eq_true_iff.2 ⟨bne_iff_ne.2 ht, bne_iff_ne.2 he⟩, rfl⟩
  | txPayloadByte p =>
    by_cases ht : p = terminator
    · subst ht; cases h; exact ⟨rfl, rfl⟩
    by_cases he : p = escape
    · subst he; cases h; exact ⟨rfl, rfl⟩
    rw [decode_txPayloadByte_of_ne ht he] at h; cases h
    exact ⟨Bool.and_eq_true_iff.2 ⟨bne_iff_ne.2 ht, bne_iff_ne.2 he⟩, rfl⟩
  | txTypeByte t => cases h; exact ⟨rfl, rfl⟩
  | typeClass d t =>
    by_cases ht : t = c.chkType
    · rw [decode_typeClass_of_eq ht] at h; cases h
      exact ⟨beq_iff_eq.2 ht, rfl⟩
    · rw [decode_typeClass_of_ne ht] at h; cases h
      exact ⟨bne_iff_ne.2 ht, rfl⟩
  | txStep v => exact wf_and_encode_of_decodeTxStep h
  | rxStep v => exact wf_and_encode_of_decodeRxStep h
  | internalStep n => exact wf_and_encode_of_decodeInternal h
  | noPort nbits w => cases h

/-- Only commands, "other" bytes, Types and the lock steps have operands to check; the port word of any
other operation decodes by computation. -/
theorem decode_encode {c : Params} {i : Instr} (h : i.wf c = true) :
    decode c (encode i) = .ok i := by
  cases i with
  | slipEnc q len p => exact decode_txCommand_ok_iff.2 ⟨Bool.and_eq_true_iff.1 h, rfl⟩
  | smxEnc q t len p => exact decode_txCommand_ok_iff.2 ⟨Bool.and_eq_true_iff.1 h, rfl⟩
  | slipDec q cap => exact decode_rxCommand_ok_iff.2 ⟨Bool.and_eq_true_iff.1 h, rfl⟩
  | smxDec q cap st => exact decode_rxCommand_ok_iff.2 ⟨Bool.and_eq_true_iff.1 h, rfl⟩
  | ingestOther b => exact decode_ingestByte_of_ne (bne_iff_ne.1 h)
  | drainOther b =>
    obtain ⟨ht, he⟩ := Bool.and_eq_true_iff.1 h
    exact decode_rxDrainByte_of_ne (bne_iff_ne.1 ht) (bne_iff_ne.1 he)
  | escOther f =>
    obtain ⟨ht, he⟩ := Bool.and_eq_true_iff.1 h
    exact decode_rxEscByte_of_ne (bne_iff_ne.1 ht) (bne_iff_ne.1 he)
  | stuffOther p =>
    obtain ⟨ht, he⟩ := Bool.and_eq_true_iff.1 h
    exact decode_txPayloadByte_of_ne (bne_iff_ne.1 ht) (bne_iff_ne.1 he)
  | typeChecksum d t => exact decode_typeClass_of_eq (beq_iff_eq.1 h)
  | typePlain d t => exact decode_typeClass_of_ne (bne_iff_ne.1 h)
  | lockGrant d q => exact decode_lockGrant_ok_iff.2 ⟨h, rfl⟩
  | lockTimeout d q => exact decode_lockTimeout_ok_iff.2 ⟨h, rfl⟩
  | _ => rfl

/-- Settles O3. -/
theorem decodeOfEncodeIsIdentity : Obligations.DecodeOfEncodeIsIdentity :=
  fun _ _ => decode_encode

/-- Settles O5: each word is the port word of a well-formed operation, so `decode_encode` reads it. -/
theorem writtenOutWordsDecode : Obligations.WrittenOutWordsDecode :=
  ⟨decode_encode (i := .ingestTerminator) rfl, decode_encode (i := .drainEscape) rfl,
    decode_encode (i := .escEscapedTerminator) rfl, decode_encode (i := .escEscapedEscape) rfl,
    decode_encode (i := .stuffEscape) rfl, decode_encode (i := .tTrail) rfl,
    decode_encode (i := .rEsc) rfl,
    decode_encode (i := .smxEnc 1 0x0A#8 2 [0x41#8, 0x42#8]) (by decide)⟩

/-! ### The rows of the opcode table -/

/-- Every operation's port word stands in the operation's row: the laws of the family, together. -/
theorem encode_in_row : ∀ i : Instr, Laws.Encoding.Statement i
  | .ingest b => Laws.Encoding.ingest b
  | .slipEnc q len p => Laws.Encoding.slipEnc q len p
  | .smxEnc q t len p => Laws.Encoding.smxEnc q t len p
  | .slipDec q cap => Laws.Encoding.slipDec q cap
  | .smxDec q cap st => Laws.Encoding.smxDec q cap st
  | .ingestTerminator => Laws.Encoding.ingestTerminator
  | .ingestOther b => Laws.Encoding.ingestOther b
  | .drainTerminator => Laws.Encoding.drainTerminator
  | .drainEscape => Laws.Encoding.drainEscape
  | .drainOther b => Laws.Encoding.drainOther b
  | .escEscapedTerminator => Laws.Encoding.escEscapedTerminator
  | .escEscapedEscape => Laws.Encoding.escEscapedEscape
  | .escOther f => Laws.Encoding.escOther f
  | .stuffTerminator => Laws.Encoding.stuffTerminator
  | .stuffEscape => Laws.Encoding.stuffEscape
  | .stuffOther p => Laws.Encoding.stuffOther p
  | .typeRaw t => Laws.Encoding.typeRaw t
  | .typeChecksum d t => Laws.Encoding.typeChecksum d t
  | .typePlain d t => Laws.Encoding.typePlain d t
  | .tLead => Laws.Encoding.tLead
  | .tType => Laws.Encoding.tType
  | .tPay => Laws.Encoding.tPay
  | .tPay2 => Laws.Encoding.tPay2
  | .tClo => Laws.Encoding.tClo
  | .tClo2 => Laws.Encoding.tClo2
  | .tChi => Laws.Encoding.tChi
  | .tChi2 => Laws.Encoding.tChi2
  | .tTrail => Laws.Encoding.tTrail
  | .rDrain => Laws.Encoding.rDrain
  | .rEsc => Laws.Encoding.rEsc
  | .push b => Laws.Encoding.push b
  | .pop => Laws.Encoding.pop
  | .synW2r iw ic => Laws.Encoding.synW2r iw ic
  | .synR2w ir => Laws.Encoding.synR2w ir
  | .synFault target => Laws.Encoding.synFault target
  | .lockGrant d q => Laws.Encoding.lockGrant d q
  | .lockRelease d => Laws.Encoding.lockRelease d
  | .lockTimeout d q => Laws.Encoding.lockTimeout d q
  | .reset lines => Laws.Encoding.reset lines

/-- A row names its operation: no two rows share a mnemonic. -/
theorem row_eq_of_mnemonic_eq : ∀ r ∈ opcodeTable, ∀ r' ∈ opcodeTable,
    r'.mnemonic = r.mnemonic → r' = r := by
  decide +kernel

/-- A pattern that asks for one whole byte. -/
def RowPattern.namesByte : RowPattern → Bool
  | .bits mask _ => mask == 0xFF
  | .chkType => true
  | .byName => false

theorem RowPattern.holds_wholeByte_iff {c : Params} {b p : Byte} :
    (RowPattern.bits 0xFF p.toNat).holds c b.toNat = true ↔ b = p := by
  have hmask : b.toNat &&& 0xFF = b.toNat :=
    (Nat.and_two_pow_sub_one_eq_mod b.toNat 8).trans (Nat.mod_eq_of_lt b.isLt)
  rw [RowPattern.holds, hmask, beq_iff_eq, BitVec.toNat_inj]

theorem RowPattern.holds_chkType_iff {c : Params} {t : Byte} :
    RowPattern.chkType.holds c t.toNat = true ↔ t = c.chkType := by
  rw [RowPattern.holds, beq_iff_eq, BitVec.toNat_inj]

/-- Beside an "any other" row of a format stand only rows that name a byte. -/
theorem namesByte_of_beside_anyOther : ∀ r ∈ opcodeTable, r.pattern.anyOther = true →
    ∀ r' ∈ opcodeTable, r'.format = r.format → r' = r ∨ r'.pattern.namesByte = true := by
  decide +kernel

/-- The rows that name a byte (R91). -/
theorem row_cases_of_namesByte : ∀ r ∈ opcodeTable, r.pattern.namesByte = true →
    r = ⟨"INGEST.TERMINATOR", .ingestByte, .bits 0xFF terminator.toNat⟩ ∨
    r = ⟨"DRAIN.TERMINATOR", .rxDrainByte, .bits 0xFF terminator.toNat⟩ ∨
    r = ⟨"DRAIN.ESCAPE", .rxDrainByte, .bits 0xFF escape.toNat⟩ ∨
    r = ⟨"ESC.ESCAPED_TERMINATOR", .rxEscByte, .bits 0xFF escapedTerminator.toNat⟩ ∨
    r = ⟨"ESC.ESCAPED_ESCAPE", .rxEscByte, .bits 0xFF escapedEscape.toNat⟩ ∨
    r = ⟨"STUFF.TERMINATOR", .txPayloadByte, .bits 0xFF terminator.toNat⟩ ∨
    r = ⟨"STUFF.ESCAPE", .txPayloadByte, .bits 0xFF escape.toNat⟩ ∨
    r = ⟨"TYPE.CHECKSUM", .typeClass, .chkType⟩ := by
  decide +kernel

/-- A row that names a byte is the one the decoder takes wherever it matches. -/
theorem decode_of_namesByte {c : Params} {r : Row} {pw : PortWord} (hr : r ∈ opcodeTable)
    (hbyte : r.pattern.namesByte = true) (hformat : r.format = pw.format)
    (hholds : r.pattern.holds c pw.bits = true) :
    ∃ i, decode c pw = .ok i ∧ i.mnemonic = r.mnemonic := by
  rcases row_cases_of_namesByte r hr hbyte with rfl | rfl | rfl | rfl | rfl | rfl | rfl | rfl
  · match pw, hformat, hholds with
    | .ingestByte b, _, hb =>
      exact ⟨.ingestTerminator, RowPattern.holds_wholeByte_iff.1 hb ▸ rfl, rfl⟩
  · match pw, hformat, hholds with
    | .rxDrainByte b, _, hb =>
      exact ⟨.drainTerminator, RowPattern.holds_wholeByte_iff.1 hb ▸ rfl, rfl⟩
  · match pw, hformat, hholds with
    | .rxDrainByte b, _, hb =>
      exact ⟨.drainEscape, RowPattern.holds_wholeByte_iff.1 hb ▸ rfl, rfl⟩
  · match pw, hformat, hholds with
    | .rxEscByte b, _, hb =>
      exact ⟨.escEscapedTerminator, RowPattern.holds_wholeByte_iff.1 hb ▸ rfl, rfl⟩
  · match pw, hformat, hholds with
    | .rxEscByte b, _, hb =>
      exact ⟨.escEscapedEscape, RowPattern.holds_wholeByte_iff.1 hb ▸ rfl, rfl⟩
  · match pw, hformat, hholds with
    | .txPayloadByte b, _, hb =>
      exact ⟨.stuffTerminator, RowPattern.holds_wholeByte_iff.1 hb ▸ rfl, rfl⟩
  · match pw, hformat, hholds with
    | .txPayloadByte b, _, hb =>
      exact ⟨.stuffEscape, RowPattern.holds_wholeByte_iff.1 hb ▸ rfl, rfl⟩
  · match pw, hformat, hholds with
    | .typeClass d t, _, ht =>
      exact ⟨.typeChecksum d t, decode_typeClass_of_eq (RowPattern.holds_chkType_iff.1 ht), rfl⟩

/-- Settles O4: the port word is the operation's own but for unread ports, so it stands in the
operation's row; where that row leaves every bit free, a second row that matched would name a byte, and
the decoder would have taken that one. -/
theorem decodeFollowsTheOpcodeTable : Obligations.DecodeFollowsTheOpcodeTable := by
  intro c pw i h
  obtain ⟨hwf, hencode⟩ := wf_and_encode_of_decode h
  obtain ⟨r, hr, hmnemonic, hformat, hholds⟩ := encode_in_row i
  specialize hholds c hwf
  rw [hencode, PortWord.format_clearUnread] at hformat
  rw [hencode, PortWord.bits_clearUnread] at hholds
  refine ⟨hwf, r, hr, hmnemonic, hformat, hholds, fun hother r' hr' hformat' hholds' => ?_⟩
  obtain heq | hbyte :=
    namesByte_of_beside_anyOther r hr hother r' hr' (hformat'.trans hformat.symm)
  · exact heq
  · obtain ⟨j, hj, hjmnemonic⟩ := decode_of_namesByte hr' hbyte hformat' hholds'
    obtain rfl : j = i := Except.ok.inj (hj.symm.trans h)
    exact row_eq_of_mnemonic_eq r hr r' hr' (hjmnemonic.symm.trans hmnemonic.symm)

end Sys2Proof
end

section
/-! `INGEST` and the packet count (spec/40_framebuffer.md R120 to R122, R129): the outcome of every
operation that is an `INGEST`, what one byte does with room and without, and the counting law over a
stream. -/

namespace Sys2Proof.Machine

/-! ### One byte -/

/-- An operation that is an `INGEST` of `b`, by the port or by its byte-class row, is one (R91). -/
theorem exec_of_ingestsOf {b : Byte} {i : Instr} (hi : ingestsOf b i) (s : State) :
    exec i s = .next (ingestByte b s) := by
  rcases hi with rfl | ⟨rfl, rfl⟩ | ⟨hb, rfl⟩
  · rfl
  · rfl
  · exact congrArg Host.Outcome.next (if_neg hb)

/-- No fault is recorded in the write domain, and it has learned of none (R241). -/
theorem writeHalted_eq_false_iff (s : State) :
    writeHalted s = false ↔ s.faults.wfault = false ∧ s.views.hfaultW = false :=
  Bool.or_eq_false_iff

/-- The byte counted is a terminator after another byte (R121). -/
theorem countedByte_eq_true_iff (b : Byte) (s : State) :
    countedByte b s = true ↔ b = 0xC0#8 ∧ s.w.lastByte ≠ 0xC0#8 := by
  rw [countedByte, Bool.and_eq_true, beq_iff_eq, bne_iff_ne]

theorem ingestByte_of_halted {b : Byte} {s : State} (hh : writeHalted s = true) :
    ingestByte b s = s := if_pos hh

theorem ingestByte_of_full {b : Byte} {s : State} (hh : writeHalted s = false)
    (hf : fullW s = true) :
    ingestByte b s = { s with faults := { s.faults with wfault := true } } := by
  simp only [ingestByte, hh, hf, raiseFatal, Bool.false_eq_true, if_false, if_true]

/-- Settles O9: with room the byte is a push with its count, whose record this is whether the byte
closes a run or not. -/
theorem ingestStoresAndCounts : Obligations.IngestStoresAndCounts := by
  intro s b i hi hw hv hf
  have hh : writeHalted s = false := (writeHalted_eq_false_iff s).2 ⟨hw, hv⟩
  rw [exec_of_ingestsOf hi, ingestByte_eq_pushCounted hh hf]
  by_cases hc : b = 0xC0#8 ∧ s.w.lastByte ≠ 0xC0#8
  · rw [(countedByte_eq_true_iff b s).2 hc, if_pos hc, if_pos hc]
    rfl
  · rw [Bool.eq_false_iff.2 (mt (countedByte_eq_true_iff b s).1 hc), if_neg hc, if_neg hc]
    rfl

/-- Settles O10: the two other cases of `ingestByte`. -/
theorem ingestWhenFullOrFaulted : Obligations.IngestWhenFullOrFaulted := by
  intro s b i hi
  rw [exec_of_ingestsOf hi]
  refine ⟨fun hw hv hf => ?_, fun hfault => ?_⟩
  · rw [ingestByte_of_full ((writeHalted_eq_false_iff s).2 ⟨hw, hv⟩) hf]
  · rw [ingestByte_of_halted ((writeHalted_eq_true_iff s).2 hfault)]

/-! ### A stream of bytes -/

/-- A stream is fed one byte at a time (R103). -/
theorem execAll_feedProgram_cons (b : Byte) (bs : List Byte) (s : State) :
    execAll (feedProgram (b :: bs)) s = execAll (feedProgram bs) (ingestByte b s) := rfl

/-- With room for one more byte `full_w` is false (R67). -/
theorem QueueInv.not_full_of_room {s : State} (hs : QueueInv s)
    (hroom : s.ghost.pushes < s.ghost.ir + s.cfg.depth) : fullW s = false := by
  have hne : s.ghost.pushes - s.ghost.ir ≠ s.cfg.depth := by
    have hpos : 0 < s.cfg.depth := Nat.two_pow_pos _
    omega
  exact Bool.eq_false_iff.2 (mt hs.fullW_iff.1 hne)

/-- `closed` is a register of `CW` bits (R26). -/
theorem QueueInv.closed_mod {s : State} (hs : QueueInv s) :
    s.w.closed % 2 ^ s.cfg.cw = s.w.closed := by
  rw [hs.closed_eq, Nat.mod_mod]

/-- A push adds its count to `closed` modulo `2^CW` (R121). -/
theorem QueueInv.pushCounted_closed {s : State} (hs : QueueInv s) (counted : Bool) (b last : Byte) :
    (Machine.pushCounted counted b last s).w.closed =
      (s.w.closed + counted.toNat) % 2 ^ s.cfg.cw := by
  cases counted with
  | false => exact hs.closed_mod.symm
  | true => rfl

/-- Settles O11, by induction on the stream: the first byte has room, so it is a push with its
count, which leaves the invariant and room for the rest. -/
theorem countingLaw : Obligations.CountingLaw := by
  intro s bs
  induction bs generalizing s with
  | nil =>
    intro hs _ _
    exact ⟨s, rfl, hs.closed_mod.symm, rfl, (List.append_nil _).symm, rfl⟩
  | cons b bs ih =>
    intro hs hh hroom
    rw [List.length_cons] at hroom
    have hf : fullW s = false := hs.not_full_of_room (by omega)
    obtain ⟨t, hrun, hclosed, hlast, hpushed, hfaults⟩ :=
      ih (pushCounted (countedByte b s) b b s) (hs.pushCounted hf _ b b) hh
        ((Nat.succ_add_eq_add_succ _ _).trans_le hroom)
    refine ⟨t, ?_, ?_, ?_, ?_, hfaults⟩
    · rw [execAll_feedProgram_cons, ingestByte_eq_pushCounted hh hf, hrun]
    · calc t.w.closed
          = ((s.w.closed + (countedByte b s).toNat) % 2 ^ s.cfg.cw + countedIn b bs) %
              2 ^ s.cfg.cw := by rw [hclosed, hs.pushCounted_closed]; rfl
        _ = (s.w.closed + countedIn s.w.lastByte (b :: bs)) % 2 ^ s.cfg.cw := by
            rw [Nat.mod_add_mod, Nat.add_assoc]; rfl
    · rw [hlast, List.getLastD_cons]; rfl
    · exact hpushed.trans (List.append_cons _ _ _).symm

end Sys2Proof.Machine
end

section
/-! The schedule's idle end and the port words no operation stands on (spec/30_encoding.md R24, R98,
R100; spec/40_framebuffer.md R125; log 4 to 6). -/

namespace Sys2Proof.Machine

/-! ### What the decoder refuses -/

theorem slotOk_eq_false_iff {c : Params} {q : Nat} : slotOk c q = false ↔ c.nreq ≤ q := by
  rw [slotOk, decide_eq_false_iff_not, Nat.not_lt]

theorem fitsLw_eq_false_iff {c : Params} {n : Nat} : fitsLw c n = false ↔ 2 ^ c.lw ≤ n := by
  rw [fitsLw, decide_eq_false_iff_not, Nat.not_lt]

/-- The state codes that select no step of the encode engine: idle, and the six never entered (R24,
R98, R253). -/
theorem decodeTxStep_showsNoStep {v : BitVec 4} (hv : v = 0#4 ∨ 10#4 ≤ v) :
    ∃ e, decodeTxStep v = .error e ∧ e.showsNoStep = true := by
  rcases hv with rfl | hv
  · exact ⟨.engineIdle, rfl, rfl⟩
  · refine ⟨.stateNeverEntered, ?_, rfl⟩
    have hle : 10 ≤ v.toNat := BitVec.le_def.1 hv
    unfold decodeTxStep
    split
    case h_11 => rfl
    all_goals omega

/-- A word at which no agent has a step: an ingest port without a valid byte, an idle engine, a
state code never entered (R24, R98, R125, R253). -/
theorem decode_showsNoStep {c : Params} {pw : PortWord}
    (hpw : (∃ b, pw = .ingestPort false b) ∨ (∃ v, (v = 0#4 ∨ 10#4 ≤ v) ∧ pw = .txStep v) ∨
      (∃ v, (v = 0#2 ∨ v = 3#2) ∧ pw = .rxStep v)) :
    ∃ e, decode c pw = .error e ∧ e.showsNoStep = true := by
  rcases hpw with ⟨b, rfl⟩ | ⟨v, hv, rfl⟩ | ⟨v, rfl | rfl, rfl⟩
  · exact ⟨.noByte, rfl, rfl⟩
  · exact decodeTxStep_showsNoStep hv
  · exact ⟨.engineIdle, rfl, rfl⟩
  · exact ⟨.stateNeverEntered, rfl, rfl⟩

/-- A command's slot is looked at before the width of its length (R100). -/
theorem decode_txCommand_refused {c : Params} {q len : Nat} {why : DecodeRefusal}
    (mode : BitVec 1) (t : Byte) (p : List Byte)
    (h : c.nreq ≤ q ∧ why = .noSuchRequester ∨
      q < c.nreq ∧ 2 ^ c.lw ≤ len ∧ why = .fieldTooWide) :
    decode c (.txCommand q mode t len p) = .error why ∧ why.showsNoStep = false := by
  rcases h with ⟨hq, rfl⟩ | ⟨hq, hlen, rfl⟩
  · exact ⟨by simp [decode, slotOk_eq_false_iff.2 hq], rfl⟩
  · exact ⟨by simp [decode, slotOk, hq, fitsLw_eq_false_iff.2 hlen], rfl⟩

/-- A command's slot is looked at before the width of its capacity (R100). -/
theorem decode_rxCommand_refused {c : Params} {q cap : Nat} {why : DecodeRefusal}
    (mode : BitVec 1) (st : DecodeState)
    (h : c.nreq ≤ q ∧ why = .noSuchRequester ∨
      q < c.nreq ∧ 2 ^ c.lw ≤ cap ∧ why = .fieldTooWide) :
    decode c (.rxCommand q mode cap st) = .error why ∧ why.showsNoStep = false := by
  rcases h with ⟨hq, rfl⟩ | ⟨hq, hcap, rfl⟩
  · exact ⟨by simp [decode, slotOk_eq_false_iff.2 hq], rfl⟩
  · exact ⟨by simp [decode, slotOk, hq, fitsLw_eq_false_iff.2 hcap], rfl⟩

/-- The arbiter's steps name a requester of the block (R100). -/
theorem decode_lockStep_refused {c : Params} {pw : PortWord} {d : Dir} {q : Nat}
    (hpw : pw = .internalStep (.lockGrant d q) ∨ pw = .internalStep (.lockTimeout d q))
    (hq : c.nreq ≤ q) :
    decode c pw = .error .noSuchRequester ∧
      DecodeRefusal.showsNoStep .noSuchRequester = false := by
  refine ⟨?_, rfl⟩
  rcases hpw with rfl | rfl <;> simp [decode, decodeInternal, slotOk_eq_false_iff.2 hq]

/-! ### What the machine does with what the decoder refuses -/

theorem step_of_script_nil {s : State} (hscript : s.env.script = []) : step s = .next s := by
  simp only [step, runNext, hscript]

theorem runEvent_op_of_showsNoStep {s : State} {pw : PortWord} {e : DecodeRefusal}
    (hdecode : decode s.cfg pw = .error e) (he : e.showsNoStep = true) :
    runEvent (.op pw) s = .next s := by
  simp only [runEvent, hdecode, he, if_true]

theorem runEvent_op_of_refused {s : State} {pw : PortWord} {e : DecodeRefusal}
    (hdecode : decode s.cfg pw = .error e) (he : e.showsNoStep = false) :
    runEvent (.op pw) s = .refused (.undecodable e) := by
  simp only [runEvent, hdecode, he, Bool.false_eq_true, if_false]

/-- In a cycle a word at which no agent has a step is as if it were not listed. -/
theorem decodeAll_cons_of_showsNoStep {c : Params} {pw : PortWord} {e : DecodeRefusal}
    (hdecode : decode c pw = .error e) (he : e.showsNoStep = true) (pws : List PortWord) :
    decodeAll c (pw :: pws) = decodeAll c pws := by
  simp only [decodeAll, hdecode, he, if_true]

theorem step_cycle_of_showsNoStep {s : State} {pw : PortWord} {pws : List PortWord}
    {rest : List Event} {e : DecodeRefusal} (hscript : s.env.script = .cycle (pw :: pws) :: rest)
    (hdecode : decode s.cfg pw = .error e) (he : e.showsNoStep = true) :
    step s = step { s with env := { s.env with script := .cycle pws :: rest } } := by
  simp only [step, runNext, hscript, runEvent, decodeAll_cons_of_showsNoStep hdecode he]

/-- A word the decoder refuses as standing on no port stops the machine by that name. -/
theorem step_of_refused {s : State} {pw : PortWord} {rest : List Event} {e : DecodeRefusal}
    (hscript : s.env.script = .op pw :: rest)
    (hrefused : decode s.cfg pw = .error e ∧ e.showsNoStep = false) :
    step s = .refused (.undecodable e) :=
  (step_of_script_cons hscript).trans (runEvent_op_of_refused hrefused.1 hrefused.2)

/-- Settles O2: the decoder's answer decides between a word without a step, alone or in a cycle, and
one that is refused. -/
theorem idleScheduleAndUndecodableWords : Obligations.IdleScheduleAndUndecodableWords := by
  refine ⟨fun s hscript => step_of_script_nil hscript, fun s pw rest hpw => ?_,
    fun s pw rest why hpw hscript => ?_⟩
  · obtain ⟨e, hdecode, he⟩ := decode_showsNoStep (c := s.cfg) hpw
    refine ⟨fun hscript => ?_, fun pws hscript => ?_⟩
    · rw [step_of_script_cons hscript]
      exact runEvent_op_of_showsNoStep hdecode he
    · exact step_cycle_of_showsNoStep hscript hdecode he
  · rcases hpw with ⟨q, mode, t, len, p, rfl, h⟩ | ⟨q, mode, cap, st, rfl, h⟩ |
      ⟨d, q, hstep, hq, rfl⟩ | ⟨nbits, w, rfl, rfl⟩
    · exact step_of_refused hscript (decode_txCommand_refused mode t p h)
    · exact step_of_refused hscript (decode_rxCommand_refused mode st h)
    · exact step_of_refused hscript (decode_lockStep_refused hstep hq)
    · exact step_of_refused hscript ⟨rfl, rfl⟩

end Sys2Proof.Machine
end

section
/-! The ByteStuffer (spec/41_bytestuffer.md R140 to R144): the escape and unescape rules byte by byte,
what they do to streams, and how long the streams and the frames get. -/

namespace Sys2Proof.Machine

/-! ### One byte (R140, R141) -/

@[simp] theorem esc_terminator : esc terminator = [escape, escapedTerminator] := rfl

@[simp] theorem esc_escape : esc escape = [escape, escapedEscape] := rfl

theorem esc_of_ne {b : Byte} (ht : b ≠ terminator) (he : b ≠ escape) : esc b = [b] := by
  rw [esc, if_neg ht, if_neg he]

@[simp] theorem unesc_escapedTerminator : unesc escapedTerminator = terminator := rfl

@[simp] theorem unesc_escapedEscape : unesc escapedEscape = escape := rfl

theorem unesc_of_ne {f : Byte} (ht : f ≠ escapedTerminator) (he : f ≠ escapedEscape) :
    unesc f = f := by
  rw [unesc, if_neg ht, if_neg he]

/-- Settles O21: the equations of the two rules, one per byte class. -/
theorem escapeAndUnescapeRules : Obligations.EscapeAndUnescapeRules :=
  ⟨⟨esc_terminator, esc_escape, fun _ => esc_of_ne⟩,
    ⟨unesc_escapedTerminator, unesc_escapedEscape, fun _ => unesc_of_ne⟩⟩

/-! ### Streams (R142, R143) -/

@[simp] theorem escAll_nil : escAll [] = [] := rfl

@[simp] theorem escAll_cons (b : Byte) (p : List Byte) : escAll (b :: p) = esc b ++ escAll p :=
  List.flatMap_cons

@[simp] theorem unescAll_nil : unescAll [] = [] := by
  rw [unescAll]

@[simp] theorem unescAll_escape_cons (f : Byte) (w : List Byte) :
    unescAll (escape :: f :: w) = unesc f :: unescAll w := by
  rw [unescAll, if_pos rfl]

theorem unescAll_cons_of_ne {b : Byte} (hb : b ≠ escape) (w : List Byte) :
    unescAll (b :: w) = b :: unescAll w := by
  rw [unescAll.eq_def]
  exact if_neg hb

/-- `esc(b)` in front of any stream is read as the one byte `b`: a follower is never read as part of
what comes after it. -/
theorem unescAll_esc_append (b : Byte) (w : List Byte) :
    unescAll (esc b ++ w) = b :: unescAll w := by
  by_cases ht : b = terminator
  · rw [ht, esc_terminator]
    exact unescAll_escape_cons escapedTerminator w
  · by_cases he : b = escape
    · rw [he, esc_escape]
      exact unescAll_escape_cons escapedEscape w
    · rw [esc_of_ne ht he]
      exact unescAll_cons_of_ne he w

theorem unescAll_esc (b : Byte) : unescAll (esc b) = [b] := by
  simpa using unescAll_esc_append b []

theorem unescAll_escAll (p : List Byte) : unescAll (escAll p) = p := by
  induction p with
  | nil => exact unescAll_nil
  | cons b p ih => rw [escAll_cons, unescAll_esc_append, ih]

theorem terminator_notMem_esc (b : Byte) : terminator ∉ esc b := by
  by_cases ht : b = terminator
  · rw [ht]; decide
  · by_cases he : b = escape
    · rw [he]; decide
    · rw [esc_of_ne ht he, List.mem_singleton]
      exact Ne.symm ht

theorem terminator_notMem_escAll (p : List Byte) : terminator ∉ escAll p := by
  intro h
  obtain ⟨b, _, hb⟩ := List.mem_flatMap.1 h
  exact terminator_notMem_esc b hb

theorem escAll_injective : Function.Injective escAll :=
  Function.LeftInverse.injective unescAll_escAll

/-- A follower that is no escape code passes unchanged (R141), so a lone `0x41` and an escaped one
are read alike. -/
theorem not_unescAll_injective : ¬ Function.Injective unescAll := by
  intro h
  have hsame : unescAll [0xDB#8, 0x41#8] = unescAll [0x41#8] := by
    rw [unescAll_escape_cons, unescAll_cons_of_ne (by decide), unesc_of_ne (by decide) (by decide)]
  exact absurd (h hsame) (by decide)

/-- Settles O22: unescaping is a left inverse of escaping, byte by byte; no `esc(b)` holds the
terminator. -/
theorem unescapeUndoesEscape : Obligations.UnescapeUndoesEscape :=
  ⟨unescAll_esc, unescAll_escAll, terminator_notMem_escAll, escAll_injective,
    not_unescAll_injective⟩

/-! ### Lengths (R144) -/

/-- A byte is one byte on the wire, and one more when it is escaped. -/
theorem length_esc (b : Byte) :
    (esc b).length = 1 + if (b == 0xC0#8 || b == 0xDB#8) = true then 1 else 0 := by
  by_cases ht : b = terminator
  · rw [ht]; rfl
  · by_cases he : b = escape
    · rw [he]; rfl
    · rw [esc_of_ne ht he, if_neg (by simp [ht, he])]
      rfl

theorem length_esc_bounds (b : Byte) : 1 ≤ (esc b).length ∧ (esc b).length ≤ 2 := by
  rw [length_esc]
  split <;> omega

theorem length_escAll (p : List Byte) :
    (escAll p).length = p.length + p.countP (fun b => b == 0xC0#8 || b == 0xDB#8) := by
  induction p with
  | nil => rfl
  | cons b p ih =>
    rw [escAll_cons, List.length_append, length_esc, ih, List.length_cons, List.countP_cons]
    omega

theorem length_escAll_bounds (p : List Byte) :
    p.length ≤ (escAll p).length ∧ (escAll p).length ≤ 2 * p.length := by
  have hcount : p.countP (fun b => b == 0xC0#8 || b == 0xDB#8) ≤ p.length := List.countP_le_length
  rw [length_escAll]
  omega

/-- A SLIP frame is its payload's escaped stream between two terminators (R92). -/
theorem length_slipFrame (p : List Byte) : (slipFrame p).length = (escAll p).length + 2 := by
  simp [slipFrame]

/-- The checksum is two bytes, each escaped on its own (R93). -/
theorem length_checksumField_bounds (c : Params) (t : Byte) (p : List Byte) :
    2 ≤ (checksumField c t p).length ∧ (checksumField c t p).length ≤ 4 := by
  have hlow := length_esc_bounds (fcsLow (crcFold c.crcInit (t :: p)))
  have hhigh := length_esc_bounds (fcsHigh (crcFold c.crcInit (t :: p)))
  rw [checksumField, List.length_append]
  omega

theorem length_smxFrame_of_ne {c : Params} {t : Byte} (ht : t ≠ c.chkType) (p : List Byte) :
    (smxFrame c t p).length = (escAll p).length + 3 := by
  simp [smxFrame, ht]

theorem length_smxFrame_chkType (c : Params) (p : List Byte) :
    (smxFrame c c.chkType p).length =
      (escAll p).length + (checksumField c c.chkType p).length + 3 := by
  simp only [smxFrame, if_true, List.length_append, List.length_cons, List.length_nil]
  omega

/-- Settles O23: the frames add their terminators, Type and checksum field to the escaped payload,
whose length is between that of the payload and twice that. -/
theorem escapedLengths : Obligations.EscapedLengths := by
  refine ⟨length_escAll, length_escAll_bounds, fun p => ?_, fun c t p ht => ?_, fun c p => ?_⟩
  · have hpay := length_escAll_bounds p
    rw [length_slipFrame]
    omega
  · have hpay := length_escAll_bounds p
    rw [length_smxFrame_of_ne ht]
    omega
  · have hpay := length_escAll_bounds p
    have hcheck := length_checksumField_bounds c c.chkType p
    rw [length_smxFrame_chkType]
    omega

end Sys2Proof.Machine
end

section
/-! The byte-class rows of the encoder (spec/41_bytestuffer.md R140, spec/30_encoding.md R91; log 9):
a row emits all of `esc(b)` and leaves the engine behind the byte. -/

namespace Sys2Proof.Machine

/-! ### The row and the state after it -/

/-- `i` is the byte-class row of the encoder for the byte `b` (R91). -/
def stuffRowOf (b : Byte) (i : Instr) : Prop :=
  (b = 0xC0#8 ∧ i = .stuffTerminator) ∨ (b = 0xDB#8 ∧ i = .stuffEscape) ∨
    (b ≠ 0xC0#8 ∧ b ≠ 0xDB#8 ∧ i = .stuffOther b)

theorem exec_of_stuffRowOf {b : Byte} {i : Instr} (hi : stuffRowOf b i) (s : State) :
    exec i s = .next (stuffClass b s) := by
  rcases hi with ⟨rfl, rfl⟩ | ⟨rfl, rfl⟩ | ⟨ht, he, rfl⟩
  · rfl
  · rfl
  · exact congrArg Host.Outcome.next (if_neg (not_or.2 ⟨ht, he⟩))

theorem stuffClass_of_stuffedByte {b : Byte} {s : State} (hready : txReady s = true)
    (hb : stuffedByte s = some b) : stuffClass b s = stuffWhole s := by
  simp only [stuffClass, hready, hb, beq_self_eq_true, Bool.and_self, if_true]

/-- All of `esc(b)` is emitted, and the engine's registers are `r`. -/
def emitEsc (b : Byte) (r : TxRegs) (s : State) : State :=
  { s with
    tx := r
    ghost := { s.ghost with sinkTrace := s.ghost.sinkTrace ++ esc b } }

/-- `tx_hold` keeps the second byte of `esc(b)`, where there is one (R153). -/
def holdFor (b : Byte) (r : TxRegs) : TxRegs :=
  { r with hold := (stuffSecond b).getD r.hold }

theorem getD_stuffSecond (b h : Byte) :
    (stuffSecond b).getD h = if b = 0xC0#8 then 0xDC#8 else if b = 0xDB#8 then 0xDD#8 else h := by
  unfold stuffSecond
  split
  · rfl
  · split <;> rfl

theorem foldFcs_eq (b : Byte) (r : TxRegs) :
    foldFcs b r = { r with fcs := if r.chk = true then Config.crcUpdate r.fcs b else r.fcs } := by
  unfold foldFcs
  split <;> rfl

/-! ### The one or two steps of a row -/

/-- The engine waits in `st` to emit the second byte of an escape sequence. -/
def awaitsSecond (st : TxState) : Prop := st = .pay2 ∨ st = .clo2 ∨ st = .chi2

theorem stuffWhole_of_awaitsSecond {s : State} (h : awaitsSecond (txStep s).tx.state) :
    stuffWhole s = txStep (txStep s) := by
  rcases h with h | h | h <;> rw [txStep.eq_def (txStep s)] <;> simp only [stuffWhole, h]

theorem stuffWhole_of_not_awaitsSecond {s : State} (h : ¬ awaitsSecond (txStep s).tx.state) :
    stuffWhole s = txStep s := by
  simp only [awaitsSecond, not_or] at h
  obtain ⟨hpay, hclo, hchi⟩ := h
  unfold stuffWhole
  dsimp only
  split
  · exact absurd (by assumption) hpay
  · exact absurd (by assumption) hclo
  · exact absurd (by assumption) hchi
  · rfl

/-- A row's steps together emit `esc(b)` and end with the byte done, whether the first of them is
done with it (`hdone`) or leaves the second byte to the next (`hrest`). -/
theorem stuffWhole_eq_emitEsc {s : State} {b : Byte} {second : TxState} {done : TxRegs → TxRegs}
    {r : TxRegs} (hsecond : awaitsSecond second)
    (hfirst : txStep s = sinkWrite (stuffFirst b) { s with tx := stuffRegs b second done r })
    (hdone : ¬ awaitsSecond (done r).state)
    (hrest : ∀ (h : Byte) (u : State), u.cfg = s.cfg → u.tx = { r with hold := h, state := second } →
      txStep u = sinkWrite h { u with tx := done { r with hold := h } }) :
    stuffWhole s = emitEsc b (done (holdFor b r)) s := by
  cases hb : stuffSecond b with
  | none =>
    have hone : txStep s = sinkWrite (stuffFirst b) { s with tx := done r } := by
      rw [hfirst, stuffRegs, hb]
    rw [stuffWhole_of_not_awaitsSecond (by rw [hone]; exact hdone), hone, emitEsc, holdFor, esc_eq, hb]
    rfl
  | some h =>
    have hone : txStep s =
        sinkWrite (stuffFirst b) { s with tx := { r with hold := h, state := second } } := by
      rw [hfirst, stuffRegs, hb]
    have htwo := hrest h (txStep s) (by rw [hone, sinkWrite_cfg]) (by rw [hone, sinkWrite_tx])
    rw [stuffWhole_of_awaitsSecond (by rw [hone]; exact hsecond), htwo, hone, emitEsc, holdFor,
      esc_eq, hb]
    simp [sinkWrite]

/-- Behind a payload byte stands the next one, the checksum or the end of the frame (R153). -/
theorem not_awaitsSecond_afterByte (r : TxRegs) (i : Nat) : ¬ awaitsSecond (afterByte r i) := by
  rcases afterByte_cases r i with ⟨_, h⟩ | ⟨_, _, h⟩ | ⟨_, _, h⟩ <;> simp [awaitsSecond, h]

theorem stuffWhole_of_pay {s : State} {b : Byte} (hst : s.tx.state = .pay)
    (hb : stuffedByte s = some b) :
    stuffWhole s = emitEsc b (nextPayload s.cfg (holdFor b (foldFcs b s.tx))) s := by
  have hb : payRead s s.tx.idx = b := by simpa [stuffedByte, hst] using hb
  refine stuffWhole_eq_emitEsc (second := .pay2) (.inl rfl) ?_ (not_awaitsSecond_afterByte _ _) ?_
  · rw [txStep, hst, ← hb]; rfl
  · intro h u hcfg hu
    rw [txStep, hu]
    simp only [pay2Step, hu, hcfg]
    rfl

theorem stuffWhole_of_clo {s : State} {b : Byte} (hst : s.tx.state = .clo)
    (hb : stuffedByte s = some b) :
    stuffWhole s = emitEsc b { holdFor b s.tx with state := .chi } s := by
  have hb : fcsLow s.tx.fcs = b := by simpa [stuffedByte, hst] using hb
  refine stuffWhole_eq_emitEsc (second := .clo2) (done := fun r => { r with state := .chi })
    (.inr (.inl rfl)) ?_ (by simp [awaitsSecond]) ?_
  · rw [txStep, hst, ← hb]; rfl
  · intro h u _ hu
    rw [txStep, hu]
    simp only [clo2Step, hu]

theorem stuffWhole_of_chi {s : State} {b : Byte} (hst : s.tx.state = .chi)
    (hb : stuffedByte s = some b) :
    stuffWhole s = emitEsc b { holdFor b s.tx with state := .trail } s := by
  have hb : fcsHigh s.tx.fcs = b := by simpa [stuffedByte, hst] using hb
  refine stuffWhole_eq_emitEsc (second := .chi2) (done := fun r => { r with state := .trail })
    (.inr (.inr rfl)) ?_ (by simp [awaitsSecond]) ?_
  · rw [txStep, hst, ← hb]; rfl
  · intro h u _ hu
    rw [txStep, hu]
    simp only [chi2Step, hu]

/-- Only a payload byte and the two checksum bytes are stuffed (R140). -/
theorem state_of_stuffedByte {s : State} {b : Byte} (hb : stuffedByte s = some b) :
    s.tx.state = .pay ∨ s.tx.state = .clo ∨ s.tx.state = .chi := by
  unfold stuffedByte at hb
  split at hb
  · exact .inl (by assumption)
  · exact .inr (.inl (by assumption))
  · exact .inr (.inr (by assumption))
  · cases hb

/-- The registers behind a payload byte, whose index does not wrap (R153). -/
theorem nextPayload_holdFor_foldFcs {c : Params} {r : TxRegs} (b : Byte)
    (hidx : r.idx + 1 < 2 ^ c.lw) :
    nextPayload c (holdFor b (foldFcs b r)) =
      { r with
        fcs := if r.chk = true then Config.crcUpdate r.fcs b else r.fcs
        hold := if b = 0xC0#8 then 0xDC#8 else if b = 0xDB#8 then 0xDD#8 else r.hold
        idx := r.idx + 1
        state :=
          if r.idx + 1 < r.len then .pay
          else if r.chk = true then .clo
          else .trail } := by
  rw [foldFcs_eq, holdFor, getD_stuffSecond, nextPayload, modAdd, Nat.mod_eq_of_lt hidx]
  rfl

/-- Settles O30: the row runs its steps, which emit `esc(b)` in each of the three states with a byte
to stuff. -/
theorem stuffRowsEmitTheEscapeSequence : Obligations.StuffRowsEmitTheEscapeSequence := by
  intro s b i hi hready hb
  rw [exec_of_stuffRowOf hi, stuffClass_of_stuffedByte hready hb]
  rcases state_of_stuffedByte hb with hst | hst | hst
  · refine ⟨_, congrArg _ (stuffWhole_of_pay hst hb), fun _ hidx => ?_, ?_, ?_⟩
    · exact nextPayload_holdFor_foldFcs b hidx
    all_goals exact fun h => nomatch hst.symm.trans h
  · refine ⟨_, congrArg _ (stuffWhole_of_clo hst hb), fun h => ?_, fun _ => ?_, fun h => ?_⟩
    · exact nomatch hst.symm.trans h
    · rw [holdFor, getD_stuffSecond]
    · exact nomatch hst.symm.trans h
  · refine ⟨_, congrArg _ (stuffWhole_of_chi hst hb), fun h => ?_, fun h => ?_, fun _ => ?_⟩
    · exact nomatch hst.symm.trans h
    · exact nomatch hst.symm.trans h
    · rw [holdFor, getD_stuffSecond]

end Sys2Proof.Machine
end

section
/-! The encode engine step by step (spec/42_slip_encode.md R151 to R155, spec/44_slipmux_encode.md
R183): when a plain command starts and when a step is enabled, and the record each step leaves. -/

namespace Sys2Proof.Machine

/-! ### What enables a step (R217, R218, R224, R225, R241) -/

/-- The host domain is halted by its own fault or one it has learned of (R241). -/
theorem hostHalted_eq_true_iff (s : State) :
    hostHalted s = true ↔ s.faults.hfault ≠ .none ∨ s.views.wfaultH = true := by
  rw [hostHalted, Bool.or_eq_true_iff, bne_iff_ne]

theorem hostHalted_eq_false_iff (s : State) :
    hostHalted s = false ↔ s.faults.hfault = .none ∧ s.views.wfaultH = false := by
  rw [hostHalted, Bool.or_eq_false_iff, bne_eq_false_iff_eq]

/-- What holds up an emitting step (R152). -/
theorem txReady_eq_false_iff (s : State) :
    txReady s = false ↔
      s.env.sinkReady = false ∨ s.faults.hfault ≠ .none ∨ s.views.wfaultH = true := by
  rw [txReady, Bool.and_eq_false_iff, Bool.not_eq_false', hostHalted_eq_true_iff]

theorem txAt_eq_false_iff (st : TxState) (s : State) :
    txAt st s = false ↔ s.tx.state ≠ st ∨ s.env.sinkReady = false ∨ s.faults.hfault ≠ .none ∨
      s.views.wfaultH = true := by
  rw [txAt, Bool.and_eq_false_iff, beq_eq_false_iff_ne, txReady_eq_false_iff]

theorem rxAt_eq_false_iff (st : RxState) (s : State) :
    rxAt st s = false ↔
      s.rx.state ≠ st ∨ s.faults.hfault ≠ .none ∨ s.views.wfaultH = true := by
  rw [rxAt, Bool.and_eq_false_iff, beq_eq_false_iff_ne, Bool.not_eq_false', hostHalted_eq_true_iff]

/-- What holds up a grant (R217, R241). -/
theorem grantable_eq_false_iff (d : Dir) (q : Nat) (s : State) :
    grantable d q s = false ↔ requested d q s = false ∨ lockHeld d s = true ∨
      engineBusy d s = true ∨ s.faults.hfault ≠ .none ∨ s.views.wfaultH = true := by
  rw [grantable, Bool.and_eq_false_iff, Bool.and_eq_false_iff, Bool.not_eq_false',
    Bool.not_eq_false', unavailable, Bool.or_eq_true_iff, hostHalted_eq_true_iff, or_assoc, or_assoc]

/-- No SLIPMUX command of the direction is posted in this cycle (R224). -/
theorem muxPosted_eq_false_iff (d : Dir) (s : State) :
    muxPosted d s = false ↔ ∀ q, Strobe.start d .slipmux q ∉ s.env.strobes := by
  rw [muxPosted, List.any_eq_false]
  constructor
  · intro h q hq
    exact h _ hq (beq_self_eq_true d)
  · rintro h (_ | ⟨d', m, q⟩) hp hd
    · cases hd
    · cases m with
      | slip => cases hd
      | slipmux => exact h q (beq_iff_eq.1 hd ▸ hp)

/-- The model's test of a plain command's start is the rules' condition (R151, R161, R224, R225). -/
theorem plainStarts_iff (d : Dir) (s : State) : plainStarts d s = true ↔ plainMayStart d s := by
  have hreq : (requests d s).any id = false ↔ ∀ r ∈ requests d s, r = false := by
    simp only [List.any_eq_false, id, Bool.not_eq_true]
  rw [plainStarts, plainMayStart, Bool.and_eq_true, Bool.and_eq_true, Bool.and_eq_true,
    Bool.and_eq_true, Bool.not_eq_true', Bool.not_eq_true', Bool.not_eq_true', Bool.not_eq_true',
    unavailable, Bool.or_eq_false_iff, hreq, muxPosted_eq_false_iff, hostHalted_eq_false_iff,
    decide_eq_true_eq]
  tauto

/-! ### Steps that are not enabled (log 5) -/

theorem whenTxAt_of_txAt {st : TxState} {s : State} (act : State → State) (h : txAt st s = true) :
    whenTxAt st act s = act s := if_pos h

theorem whenTxAt_of_not_txAt {st : TxState} {s : State} (act : State → State)
    (h : txAt st s = false) : whenTxAt st act s = s := if_neg (Bool.eq_false_iff.1 h)

theorem withSlot_of_lt {q : Nat} {s : State} (k : Host.Outcome State Fault Refusal)
    (h : q < s.cfg.nreq) : withSlot q s k = k := if_pos h

/-- An emitting step is its engine action where the engine stands in its state (R152 to R155, R183 to
R187). -/
theorem exec_of_txStepRow {st : TxState} {i : Instr}
    (h : (st, i) ∈ [(TxState.lead, Instr.tLead), (.type, .tType), (.pay, .tPay), (.pay2, .tPay2),
      (.clo, .tClo), (.clo2, .tClo2), (.chi, .tChi), (.chi2, .tChi2), (.trail, .tTrail)])
    (s : State) : ∃ act, exec i s = .next (whenTxAt st act s) := by
  simp only [List.mem_cons, Prod.mk.injEq, List.not_mem_nil, or_false] at h
  rcases h with ⟨rfl, rfl⟩ | ⟨rfl, rfl⟩ | ⟨rfl, rfl⟩ | ⟨rfl, rfl⟩ | ⟨rfl, rfl⟩ | ⟨rfl, rfl⟩ |
    ⟨rfl, rfl⟩ | ⟨rfl, rfl⟩ | ⟨rfl, rfl⟩ <;> exact ⟨_, rfl⟩

/-- `R_DRAIN` and `R_ESC` are their engine action where the engine stands in their state (R162,
R166). -/
theorem exec_of_rxStepRow {st : RxState} {i : Instr}
    (h : (st, i) ∈ [(RxState.drain, Instr.rDrain), (.esc, .rEsc)]) (s : State) :
    ∃ act : State → State, exec i s = .next (if rxAt st s then act s else s) := by
  simp only [List.mem_cons, Prod.mk.injEq, List.not_mem_nil, or_false] at h
  rcases h with ⟨rfl, rfl⟩ | ⟨rfl, rfl⟩ <;> exact ⟨_, rfl⟩

/-- Settles O31: each kind of step tests its enabling condition first and answers the state itself
where it fails. -/
theorem disabledStepsDoNothing : Obligations.DisabledStepsDoNothing := by
  refine ⟨fun s st i hi h => ?_, fun s st i hi h => ?_, fun s d q hq h => ?_, fun s d q hq h => ?_⟩
  · obtain ⟨act, he⟩ := exec_of_txStepRow hi s
    rw [he, whenTxAt_of_not_txAt act ((txAt_eq_false_iff st s).2 h)]
  · obtain ⟨act, he⟩ := exec_of_rxStepRow hi s
    rw [he, (rxAt_eq_false_iff st s).2 h, if_neg Bool.false_ne_true]
  · have hg : grantable d q s = false := (grantable_eq_false_iff d q s).2 h
    exact (withSlot_of_lt _ hq).trans (congrArg _ (if_neg (Bool.eq_false_iff.1 hg)))
  · have hb : (blocked d q s && !hostHalted s) = false := by
      rw [Bool.and_eq_false_iff, Bool.not_eq_false', hostHalted_eq_true_iff]
      exact h
    exact (withSlot_of_lt _ hq).trans (congrArg _ (if_neg (Bool.eq_false_iff.1 hb)))

/-! ### The steps (R151 to R155, R183) -/

/-- The bytes `bs` have gone to the sink, and the engine's registers are `r`. -/
def emitted (bs : List Byte) (r : TxRegs) (s : State) : State :=
  { s with
    tx := r
    ghost := { s.ghost with sinkTrace := s.ghost.sinkTrace ++ bs } }

/-- A plain encode that may start puts its payload behind the port and starts (R151). -/
theorem exec_slipEnc_of_mayStart {s : State} {q : Nat} (len : Nat) (p : List Byte)
    (hq : q < s.cfg.nreq) (h : plainMayStart .tx s) :
    exec (.slipEnc q len p) s = .next (startTx .slip q 0#8 len (setTxPort q 0#8 len p s)) :=
  (withSlot_of_lt _ hq).trans (congrArg _ (if_pos ((plainStarts_iff .tx s).2 h)))

theorem onLwWires_of_lt {c : Params} {n : Nat} (h : n < 2 ^ c.lw) : onLwWires c n = n :=
  Nat.mod_eq_of_lt h

/-- The start step of a plain encode latches the command; a length that fits its wires is kept whole
(R151). -/
theorem startTx_slip_setTxPort {s : State} {len : Nat} (q : Nat) (p : List Byte)
    (hlen : len < 2 ^ s.cfg.lw) :
    startTx .slip q 0#8 len (setTxPort q 0#8 len p s) =
      { s with
        tx :=
          { s.tx with
            mode := .slip, chk := false, len := len, idx := 0, owner := q, done := false,
            state := .lead }
        ghost := { s.ghost with grants := s.ghost.grants ++ [(.tx, q)] }
        env :=
          { s.env with
            txCmd := s.env.txCmd.set q { type := 0#8, len := len, payload := p } } } := by
  simp only [startTx, setTxPort_cfg, onLwWires_of_lt hlen]
  rfl

/-- Settles O24: the command may start, so it does, and the start step is the record. -/
theorem plainEncodeStarts : Obligations.PlainEncodeStarts := by
  intro s q len p hq hlen h
  rw [exec_slipEnc_of_mayStart len p hq h, startTx_slip_setTxPort q p hlen]

/-- Step `T_LEAD` (R152). -/
theorem leadStep_eq (s : State) :
    leadStep s = emitted [terminator]
      { s.tx with
        state :=
          if s.tx.mode = .slipmux then .type else if s.tx.len = 0 then .trail else .pay } s := by
  unfold leadStep
  cases s.tx.mode <;> rfl

/-- Step `T_TYPE` (R183). -/
theorem typeStep_eq (s : State) :
    typeStep s = emitted [s.tx.type]
      { s.tx with
        fcs := if s.tx.chk = true then Config.crcUpdate s.tx.fcs s.tx.type else s.tx.fcs
        state := afterByte s.tx 0 } s := by
  rw [typeStep, foldFcs_eq]
  rfl

/-- The row `TYPE.RAW` for the Type in `tx_type` is the step `T_TYPE` (R91, R183). -/
theorem exec_typeRow_of_txAt {s : State} {i : Instr} (hi : i = .tType ∨ i = .typeRaw s.tx.type)
    (h : txAt .type s = true) : exec i s = .next (typeStep s) := by
  have hstep := whenTxAt_of_txAt typeStep h
  rcases hi with rfl | rfl
  · exact congrArg Host.Outcome.next hstep
  · exact congrArg Host.Outcome.next ((if_pos rfl).trans hstep)

/-- Settles O26: both steps are enabled and leave the records of their equations. -/
theorem leadAndTypeSteps : Obligations.LeadAndTypeSteps := by
  refine ⟨fun s h => ?_, fun s i hi h => ?_⟩
  · exact congrArg Host.Outcome.next ((whenTxAt_of_txAt leadStep h).trans (leadStep_eq s))
  · exact (exec_typeRow_of_txAt hi h).trans (congrArg _ (typeStep_eq s))

/-- The index of a payload byte that is done does not wrap below the length's range (R40, R153). -/
theorem nextPayload_of_lt {c : Params} {r : TxRegs} (h : r.idx + 1 < 2 ^ c.lw) :
    nextPayload c r = { r with idx := r.idx + 1, state := afterByte r (r.idx + 1) } := by
  rw [nextPayload, modAdd, Nat.mod_eq_of_lt h]

/-- The registers after the first byte of `esc(p)`: the byte is done, or the second byte waits (R153,
R184, R186). -/
theorem stuffRegs_eq (p : Byte) (second : TxState) (done : TxRegs → TxRegs) (r : TxRegs) :
    stuffRegs p second done r =
      if p = terminator ∨ p = escape then { holdFor p r with state := second } else done r := by
  rcases stuffRegs_cases p second done r with ⟨hp, he⟩ | ⟨hp, he⟩ | ⟨ht, hn, he⟩
  · rw [he, if_pos (.inl hp), hp]; rfl
  · rw [he, if_pos (.inr hp), hp]; rfl
  · rw [he, if_neg (not_or.2 ⟨ht, hn⟩)]

/-- Step `T_PAY` (R153). -/
theorem payStep_eq {s : State} {p : Byte} (hp : p = payRead s s.tx.idx)
    (hidx : s.tx.idx + 1 < 2 ^ s.cfg.lw) :
    payStep s = emitted [if p = terminator ∨ p = escape then escape else p]
      { s.tx with
        fcs := if s.tx.chk = true then Config.crcUpdate s.tx.fcs p else s.tx.fcs
        hold := (stuffSecond p).getD s.tx.hold
        idx := if p = terminator ∨ p = escape then s.tx.idx else s.tx.idx + 1
        state :=
          if p = terminator ∨ p = escape then .pay2 else afterByte s.tx (s.tx.idx + 1) } s := by
  have hfold : (foldFcs p s.tx).idx + 1 < 2 ^ s.cfg.lw := by rw [foldFcs_eq]; exact hidx
  rw [payStep, ← hp, stuffRegs_eq, nextPayload_of_lt hfold, foldFcs_eq]
  by_cases hesc : p = terminator ∨ p = escape
  · simp only [if_pos hesc, stuffFirst]
    rfl
  · have hnone : stuffSecond p = none := by
      rw [stuffSecond, if_neg (not_or.1 hesc).1, if_neg (not_or.1 hesc).2]
    simp only [if_neg hesc, stuffFirst, hnone]
    rfl

/-- Step `T_PAY2` (R154). -/
theorem pay2Step_eq {s : State} (hidx : s.tx.idx + 1 < 2 ^ s.cfg.lw) :
    pay2Step s = emitted [s.tx.hold]
      { s.tx with idx := s.tx.idx + 1, state := afterByte s.tx (s.tx.idx + 1) } s := by
  rw [pay2Step, nextPayload_of_lt hidx]
  rfl

/-- `PayRead(i)` is byte `i` of the payload behind the owner's port (R73, log 20). -/
theorem payRead_of_port {s : State} {port : TxPort} {i : Nat} {b : Byte}
    (hport : s.env.txCmd[s.tx.owner]? = some port) (hb : port.payload[i]? = some b) :
    payRead s i = b := by
  rw [payRead, hport, Option.bind_some, hb, Option.getD_some]

/-- Settles O27: both steps are enabled and leave the records of their equations, and `PayRead` reads
the port. -/
theorem payloadSteps : Obligations.PayloadSteps := by
  refine fun s hidx => ⟨fun p h hp => ?_, fun h => ?_, fun port i b => payRead_of_port⟩
  · rw [← getD_stuffSecond]
    exact congrArg Host.Outcome.next ((whenTxAt_of_txAt payStep h).trans (payStep_eq hp hidx))
  · exact congrArg Host.Outcome.next ((whenTxAt_of_txAt pay2Step h).trans (pay2Step_eq hidx))

/-- Step `T_TRAIL` (R155, R220). -/
theorem trailStep_eq (s : State) :
    trailStep s = emitted [terminator] { s.tx with done := true, state := .idle }
      { s with locks :=
        { s.locks with txLock := if s.tx.mode = .slipmux then false else s.locks.txLock } } := by
  unfold trailStep
  cases s.tx.mode <;> rfl

/-- The row `LOCK_RELEASE` of the transmit lock is the step `T_TRAIL` of a SLIPMUX call (R220,
log 12). -/
theorem exec_trailRow_of_txAt {s : State} {i : Instr}
    (hi : i = .tTrail ∨ (i = .lockRelease .tx ∧ s.tx.mode = .slipmux)) (h : txAt .trail s = true) :
    exec i s = .next (trailStep s) := by
  have hstep := whenTxAt_of_txAt trailStep h
  rcases hi with rfl | ⟨rfl, hmode⟩
  · exact congrArg Host.Outcome.next hstep
  · exact congrArg Host.Outcome.next ((if_pos hmode).trans hstep)

/-- Settles O29: the step is enabled and leaves the record of its equation. -/
theorem trailStepEndsTheCall : Obligations.TrailStepEndsTheCall :=
  fun s _ hi h => (exec_trailRow_of_txAt hi h).trans (congrArg _ (trailStep_eq s))

end Sys2Proof.Machine
end

section
/-! A whole `SLIP_ENC` call (spec/42_slip_encode.md R150 to R156): one emitting step per wire byte, from
the leading terminator through the escaped payload to the closing one. -/

namespace Sys2Proof.Machine

/-! ### Runs of the engine and what they emit -/

theorem txRun_add (m n : Nat) (s : State) : txRun (m + n) s = txRun n (txRun m s) := by
  induction m generalizing s with
  | zero => rw [Nat.zero_add]; rfl
  | succ m ih => rw [Nat.succ_add]; exact ih _

/-- Running `as ++ bs` many steps is running `as` many and then `bs` many. -/
theorem txRun_length_append (as bs : List Byte) (s : State) :
    txRun (as ++ bs).length s = txRun bs.length (txRun as.length s) := by
  rw [List.length_append, txRun_add]

theorem txRun_one {s : State} (h : txReady s = true) : txRun 1 s = txStep s := by
  simp only [txRun, if_pos h]

theorem txRun_two {s : State} (h : txReady s = true) : txRun 2 s = txStep (txStep s) := by
  have h' : txReady (txStep s) = true := (txReady_txStep s).trans h
  simp only [txRun, if_pos h, if_pos h']

@[simp] theorem emitted_tx (bs : List Byte) (r : TxRegs) (s : State) :
    (emitted bs r s).tx = r := rfl

theorem emitEsc_eq_emitted (b : Byte) (r : TxRegs) (s : State) :
    emitEsc b r s = emitted (esc b) r s := rfl

theorem emitted_nil (s : State) : emitted [] s.tx s = s := by
  simp only [emitted, List.append_nil]

theorem emitted_emitted (as bs : List Byte) (r r' : TxRegs) (s : State) :
    emitted bs r' (emitted as r s) = emitted (as ++ bs) r' s := by
  simp only [emitted, List.append_assoc]

/-! ### One stuffed byte -/

/-- After the first byte of `esc(b)` the engine waits for a second exactly where there is one (R140,
R153). -/
theorem awaitsSecond_stuffRegs_iff {b : Byte} {second : TxState} {done : TxRegs → TxRegs}
    {r : TxRegs} (hsecond : awaitsSecond second) (hdone : ¬ awaitsSecond (done r).state) :
    awaitsSecond (stuffRegs b second done r).state ↔ (esc b).length = 2 := by
  rw [esc_eq, stuffRegs]
  cases stuffSecond b with
  | none => simpa using hdone
  | some h => simpa using hsecond

theorem awaitsSecond_txStep_iff {s : State} {b : Byte} (hb : stuffedByte s = some b) :
    awaitsSecond (txStep s).tx.state ↔ (esc b).length = 2 := by
  rcases state_of_stuffedByte hb with hst | hst | hst <;>
    rw [stuffedByte, hst] at hb <;> obtain rfl := Option.some.inj hb <;> rw [txStep, hst]
  · exact awaitsSecond_stuffRegs_iff (.inl rfl) (not_awaitsSecond_afterByte _ _)
  · exact awaitsSecond_stuffRegs_iff (.inr (.inl rfl)) (by simp [awaitsSecond])
  · exact awaitsSecond_stuffRegs_iff (.inr (.inr rfl)) (by simp [awaitsSecond])

/-- As many steps as `esc(b)` has bytes are the steps that stuff `b` (R140). -/
theorem txRun_length_esc {s : State} {b : Byte} (hready : txReady s = true)
    (hb : stuffedByte s = some b) : txRun (esc b).length s = stuffWhole s := by
  have hbounds := length_esc_bounds b
  by_cases htwo : (esc b).length = 2
  · rw [htwo, txRun_two hready, stuffWhole_of_awaitsSecond ((awaitsSecond_txStep_iff hb).2 htwo)]
  · have hone : (esc b).length = 1 := by omega
    rw [hone, txRun_one hready,
      stuffWhole_of_not_awaitsSecond (mt (awaitsSecond_txStep_iff hb).1 htwo)]

/-! ### The payload (R153, R154) -/

/-- The running call has the bytes `rest` of its payload still to emit: they stand behind the owner's
port from `tx_idx` to `tx_len` (R73, R101). -/
structure PayloadLeft (s : State) (rest : List Byte) : Prop where
  behindPort : ∃ port, s.env.txCmd[s.tx.owner]? = some port ∧ port.payload.drop s.tx.idx = rest
  length_eq : s.tx.idx + rest.length = s.tx.len
  len_lt : s.tx.len < 2 ^ s.cfg.lw

/-- The next byte left is the one `PayRead` returns. -/
theorem PayloadLeft.payRead_eq {s : State} {b : Byte} {rest : List Byte}
    (h : PayloadLeft s (b :: rest)) : payRead s s.tx.idx = b := by
  obtain ⟨port, hport, hdrop⟩ := h.behindPort
  refine payRead_of_port hport ?_
  rw [← List.head?_drop, hdrop, List.head?_cons]

theorem PayloadLeft.idx_lt_len {s : State} {b : Byte} {rest : List Byte}
    (h : PayloadLeft s (b :: rest)) : s.tx.idx < s.tx.len := by
  have := h.length_eq
  rw [List.length_cons] at this
  omega

/-- With one byte done, the rest is left. -/
theorem PayloadLeft.emitted {s : State} {b : Byte} {rest : List Byte} {r : TxRegs}
    (h : PayloadLeft s (b :: rest)) (bs : List Byte) (howner : r.owner = s.tx.owner)
    (hidx : r.idx = s.tx.idx + 1) (hlen : r.len = s.tx.len) :
    PayloadLeft (emitted bs r s) rest := by
  obtain ⟨⟨port, hport, hdrop⟩, hlength, hlt⟩ := h
  refine ⟨⟨port, ?_, ?_⟩, ?_, ?_⟩
  · rw [emitted_tx, howner]; exact hport
  · rw [emitted_tx, hidx, ← List.drop_drop, hdrop, List.drop_one, List.tail_cons]
  · rw [List.length_cons] at hlength
    rw [emitted_tx, hidx, hlen]
    omega
  · rw [emitted_tx, hlen]; exact hlt

/-- The registers behind a payload whose last bytes are `rest`; `tx_hold` holds what the last escape
sequence left there. -/
def afterPayload (rest : List Byte) (hold : Byte) (r : TxRegs) : TxRegs :=
  { r with
    fcs := if r.chk = true then crcFold r.fcs rest else r.fcs
    hold := hold
    idx := r.len
    state := afterByte r r.len }

theorem afterPayload_nil {r : TxRegs} (hidx : r.idx = r.len) (hst : r.state = afterByte r r.idx) :
    afterPayload [] r.hold r = r := by
  rw [hidx] at hst
  simp only [afterPayload, crcFold, List.foldl_nil, ite_self, ← hst]
  exact congrArg (fun i => { r with idx := i }) hidx.symm

/-- The payload bytes left go out escaped, and the engine then stands behind the payload (R142, R153,
R154).  It starts in the state `afterByte` names, which is `T_PAY` as long as a byte is left; by
induction on the bytes left. -/
theorem txRun_payload {s : State} {rest : List Byte} (hready : txReady s = true)
    (hleft : PayloadLeft s rest) (hst : s.tx.state = afterByte s.tx s.tx.idx) :
    ∃ hold, txRun (escAll rest).length s = emitted (escAll rest) (afterPayload rest hold s.tx) s := by
  induction rest generalizing s with
  | nil =>
    have hidx : s.tx.idx = s.tx.len := hleft.length_eq
    exact ⟨s.tx.hold, by rw [afterPayload_nil hidx hst, escAll_nil, emitted_nil]; rfl⟩
  | cons b rest ih =>
    have hlt : s.tx.idx < s.tx.len := hleft.idx_lt_len
    have hpay : s.tx.state = .pay := by rw [hst, afterByte, if_pos hlt]
    have hb : stuffedByte s = some b := by rw [stuffedByte, hpay, hleft.payRead_eq]
    have hidx : s.tx.idx + 1 < 2 ^ s.cfg.lw := Nat.lt_of_le_of_lt hlt hleft.len_lt
    have hbyte := (txRun_length_esc hready hb).trans (stuffWhole_of_pay hpay hb)
    rw [emitEsc_eq_emitted, nextPayload_holdFor_foldFcs b hidx] at hbyte
    obtain ⟨hold, hrest⟩ := ih (s := txRun (esc b).length s) (by rw [hbyte]; exact hready)
      (by rw [hbyte]; exact hleft.emitted _ rfl rfl rfl) (by rw [hbyte]; rfl)
    refine ⟨hold, ?_⟩
    rw [escAll_cons, txRun_length_append, hrest, hbyte, emitted_emitted]
    congr 1
    cases hchk : s.tx.chk <;> simp [afterPayload, hchk, crcFold, afterByte]

/-! ### The call (R150 to R156) -/

/-- A plain call stands before its first byte, with the payload `p` to emit (R151). -/
structure SlipCallBegun (s : State) (p : List Byte) : Prop where
  state_eq : s.tx.state = .lead
  mode_eq : s.tx.mode = .slip
  chk_eq : s.tx.chk = false
  idx_eq : s.tx.idx = 0
  left : PayloadLeft s p

/-- The start step of a plain encode begins the call (R151). -/
theorem slipCallBegun_startTx {s : State} {q : Nat} {p : List Byte} (hs : SlotInv s)
    (hq : q < s.cfg.nreq) (hlen : p.length < 2 ^ s.cfg.lw) :
    SlipCallBegun (startTx .slip q 0#8 p.length (setTxPort q 0#8 p.length p s)) p := by
  rw [startTx_slip_setTxPort q p hlen]
  have hport := List.getElem?_set_self (a := ({ type := 0#8, len := p.length, payload := p } : TxPort))
    (hs.txCmd_length ▸ hq)
  exact ⟨rfl, rfl, rfl, rfl, ⟨_, hport, rfl⟩, Nat.zero_add _, hlen⟩

/-- The leading terminator of a plain frame; the engine then stands where `afterByte(0)` sends it
(R152). -/
theorem SlipCallBegun.txRun_lead {s : State} {p : List Byte} (h : SlipCallBegun s p)
    (hready : txReady s = true) :
    txRun 1 s = emitted [terminator] { s.tx with state := afterByte s.tx 0 } s := by
  rw [txRun_one hready, txStep, h.state_eq]
  simp only [leadStep_eq, h.mode_eq, afterByte, h.chk_eq]
  by_cases hlen : s.tx.len = 0
  · simp [hlen]
  · simp [hlen, Nat.pos_of_ne_zero hlen]

/-- The closing terminator of a plain frame, which leaves the locks alone (R155, R220). -/
theorem txRun_trail_slip {s : State} (hready : txReady s = true) (hst : s.tx.state = .trail)
    (hmode : s.tx.mode = .slip) :
    txRun 1 s = emitted [terminator] { s.tx with done := true, state := .idle } s := by
  rw [txRun_one hready, txStep, hst]
  simp only [trailStep_eq, hmode]
  rfl

/-- From its first byte on, a plain call emits exactly the frame and ends: nothing but the engine and the
sink's trace changes (R92, R156). -/
theorem SlipCallBegun.txRun_slipFrame {s : State} {p : List Byte} (h : SlipCallBegun s p)
    (hready : txReady s = true) :
    ∃ r, txRun (slipFrame p).length s = emitted (slipFrame p) r s ∧ r.state = .idle ∧
      r.done = true := by
  obtain ⟨hold, hpayload⟩ := txRun_payload
    (s := emitted [terminator] { s.tx with state := afterByte s.tx 0 } s) hready { h.left with }
    (congrArg (afterByte s.tx) h.idx_eq.symm)
  rw [emitted_emitted] at hpayload
  have hbehind : afterByte s.tx s.tx.len = .trail := by
    rw [afterByte, if_neg (Nat.lt_irrefl _), h.chk_eq, if_neg Bool.false_ne_true]
  refine ⟨{ afterPayload p hold s.tx with done := true, state := .idle }, ?_, rfl, rfl⟩
  rw [slipFrame, txRun_length_append, txRun_length_append, List.length_singleton,
    h.txRun_lead hready, hpayload]
  exact Eq.trans (txRun_trail_slip hready hbehind h.mode_eq) (emitted_emitted ..)

/-- Settles O32: the start step begins the call, and the call's run emits the frame and leaves
everything else as the start step left it. -/
theorem slipEncodeCallEmitsTheFrame : Obligations.SlipEncodeCallEmitsTheFrame := by
  intro s q p hs hq hlen hmay hsink
  have hready : txReady s = true := by
    obtain ⟨_, _, _, _, _, hfault, hview⟩ := hmay
    rw [txReady, hsink, (hostHalted_eq_false_iff s).2 ⟨hfault, hview⟩]
    rfl
  obtain ⟨r, hrun, hidle, hdone⟩ := (slipCallBegun_startTx hs hq hlen).txRun_slipFrame hready
  refine ⟨_, exec_slipEnc_of_mayStart _ p hq hmay, ?_⟩
  rw [hrun]
  exact ⟨rfl, hidle, hdone, rfl, rfl, rfl, rfl, rfl⟩

end Sys2Proof.Machine
end

section
/-! The decode engine step by step (spec/43_slip_decode.md R161 to R169, spec/45_slipmux_decode.md R199 to
R202): the start of a plain decode, the rows that are one pop of the engine, and the record that each
byte class leaves. -/

namespace Sys2Proof.Machine

/- As in the tests: side by side these proofs take more threads than the check has memory for. -/
set_option Elab.async false

/-! ### The start of a plain decode (R161) -/

/-- The start step of a plain decode, for which the caller holds no `DecodeState` (R160, R161). -/
def startSlipDec (q cap : Nat) (s : State) : State :=
  startRx .slip q cap { typeValid := false, type := 0x00#8, pending := false } s

/-- A plain decode that may start does (R161, R224). -/
theorem exec_slipDec_of_mayStart {s : State} {q : Nat} (cap : Nat) (hq : q < s.cfg.nreq)
    (h : plainMayStart .rx s) : exec (.slipDec q cap) s = .next (startSlipDec q cap s) :=
  (withSlot_of_lt _ hq).trans (congrArg _ (if_pos ((plainStarts_iff .rx s).2 h)))

/-- With no completed packet visible the call ends where it starts (R161, R169). -/
theorem startSlipDec_of_count_zero {s : State} {cap : Nat} (q : Nat) (hcap : cap < 2 ^ s.cfg.lw)
    (hcount : countR s = 0) :
    startSlipDec q cap s =
      { s with
        rx :=
          { s.rx with
            mode := .slip, cap := cap, owner := q, rcv := 0, first := false,
            typeValid := false, resLen := 0, resComplete := false, resTypeValid := false,
            resType := 0#8, resPending := false, done := true, state := .idle }
        ghost :=
          { s.ghost with dstTrace := [], grants := s.ghost.grants ++ [(.rx, q)] } } := by
  simp only [startSlipDec, startRx, if_pos hcount, startRegs, onLwWires_of_lt hcap]
  rfl

/-- With a completed packet visible the engine drains (R161). -/
theorem startSlipDec_of_count_ne_zero {s : State} {cap : Nat} (q : Nat) (hcap : cap < 2 ^ s.cfg.lw)
    (hcount : countR s ≠ 0) :
    startSlipDec q cap s =
      { s with
        rx :=
          { s.rx with
            mode := .slip, cap := cap, owner := q, rcv := 0, first := false,
            typeValid := false, done := false, state := .drain }
        ghost :=
          { s.ghost with dstTrace := [], grants := s.ghost.grants ++ [(.rx, q)] } } := by
  simp only [startSlipDec, startRx, if_neg hcount, startRegs, onLwWires_of_lt hcap]
  rfl

/-- Settles O34: the command may start, so it does, and the count decides between the two records. -/
theorem plainDecodeStarts : Obligations.PlainDecodeStarts := by
  refine fun s q cap hq hcap h => ⟨fun hcount => ?_, fun hcount => ?_⟩
  · rw [exec_slipDec_of_mayStart cap hq h, startSlipDec_of_count_zero q hcap hcount]
  · rw [exec_slipDec_of_mayStart cap hq h, startSlipDec_of_count_ne_zero q hcap hcount]

/-! ### A queue that looks empty (R162, R166) -/

/-- The result of the bytes stored so far, not complete, is the partial result (R169, R202). -/
theorem result_rcv_eq_partialResult (s : State) :
    result s.rx.rcv false false s = partialResult s := by
  cases hm : s.rx.mode <;> simp [result, partialResult, hm]

theorem drainStep_of_count_zero {s : State} (he : emptyR s = true) (hcount : countR s = 0) :
    drainStep s = partialResult s := by
  rw [drainStep, if_pos he, if_pos hcount, result_rcv_eq_partialResult]

/-- The first fault of the host domain is recorded, and nothing else happens (R162, R236, R240). -/
theorem drainStep_of_count_ne_zero {s : State} (he : emptyR s = true) (hcount : countR s ≠ 0)
    (hfault : s.faults.hfault = .none) :
    drainStep s = { s with faults := { s.faults with hfault := .countNotZeroOnEmpty } } := by
  rw [drainStep, if_pos he, if_neg hcount]
  exact if_pos hfault

theorem escStep_of_empty {s : State} (he : emptyR s = true) : escStep s = partialResult s := by
  rw [escStep, if_pos he, result_rcv_eq_partialResult]

/-- Settles O35: the step is enabled, so no fault is recorded yet, and the count decides. -/
theorem drainOnEmptyQueue : Obligations.DrainOnEmptyQueue := by
  intro s hat he
  obtain ⟨hst, hrun⟩ := rxAt_eq hat
  obtain ⟨hfault, _⟩ := (hostHalted_eq_false_iff s).1 hrun
  rw [exec_rDrain_of_drain hst hrun]
  refine ⟨fun hcount => ?_, fun hcount => ?_⟩
  · rw [drainStep_of_count_ne_zero he hcount hfault]
  · rw [drainStep_of_count_zero he hcount]

/-! ### The rows that pop a byte (R91, log 8) -/

theorem headByte_of_headIs {b : Byte} {s : State} (h : headIs b s) : headByte s = b := by
  have hcell : Memory.read s.w.ring (ringIndex s.cfg s.rx.rptr) = some b := h.2
  rw [headByte, ringRead, hcell, Option.getD_some]

theorem drainStep_of_not_empty {s : State} (he : emptyR s = false) :
    drainStep s = drainByte (headByte s) (popByte s) := if_neg (Bool.eq_false_iff.1 he)

theorem escStep_of_not_empty {s : State} (he : emptyR s = false) :
    escStep s = escByte (headByte s) (popByte s) := if_neg (Bool.eq_false_iff.1 he)

theorem rxStep_of_drain {s : State} (hst : s.rx.state = .drain) : rxStep s = drainStep s := by
  rw [rxStep, hst]

theorem rxStep_of_esc {s : State} (hst : s.rx.state = .esc) : rxStep s = escStep s := by
  rw [rxStep, hst]

/-- A byte-class row whose byte stands at the head is the engine's step. -/
theorem popClass_of_headIs {st : RxState} {b : Byte} {s : State} (hat : rxAt st s = true)
    (hb : headIs b s) : popClass st b s = rxStep s := by
  rw [popClass, hat, hb.1, headByte_of_headIs hb, beq_self_eq_true]
  rfl

/-- The rows that are `R_DRAIN` popping `b`: the step itself and the byte's class (R91). -/
def drainRowOf (b : Byte) (i : Instr) : Prop :=
  i = .rDrain ∨ (b = terminator ∧ i = .drainTerminator) ∨ (b = escape ∧ i = .drainEscape) ∨
    (b ≠ terminator ∧ b ≠ escape ∧ i = .drainOther b)

/-- The rows that are `R_ESC` popping `f`: the step itself and the follower's class (R91). -/
def escRowOf (f : Byte) (i : Instr) : Prop :=
  i = .rEsc ∨ (f = escapedTerminator ∧ i = .escEscapedTerminator) ∨
    (f = escapedEscape ∧ i = .escEscapedEscape) ∨
    (f ≠ escapedTerminator ∧ f ≠ escapedEscape ∧ i = .escOther f)

theorem exec_of_drainRowOf {b : Byte} {i : Instr} {s : State} (hi : drainRowOf b i)
    (hat : rxAt .drain s = true) (hb : headIs b s) :
    exec i s = .next (drainByte b (popByte s)) := by
  obtain ⟨hst, hrun⟩ := rxAt_eq hat
  have hstep : drainStep s = drainByte b (popByte s) := by
    rw [drainStep_of_not_empty hb.1, headByte_of_headIs hb]
  have hclass : popClass .drain b s = drainByte b (popByte s) := by
    rw [popClass_of_headIs hat hb, rxStep_of_drain hst, hstep]
  rcases hi with rfl | ⟨rfl, rfl⟩ | ⟨rfl, rfl⟩ | ⟨ht, he, rfl⟩
  · rw [exec_rDrain_of_drain hst hrun, hstep]
  · exact congrArg Host.Outcome.next hclass
  · exact congrArg Host.Outcome.next hclass
  · exact congrArg Host.Outcome.next ((if_neg (not_or.2 ⟨ht, he⟩)).trans hclass)

theorem exec_of_escRowOf {f : Byte} {i : Instr} {s : State} (hi : escRowOf f i)
    (hat : rxAt .esc s = true) (hf : headIs f s) :
    exec i s = .next (escByte f (popByte s)) := by
  obtain ⟨hst, hrun⟩ := rxAt_eq hat
  have hstep : escStep s = escByte f (popByte s) := by
    rw [escStep_of_not_empty hf.1, headByte_of_headIs hf]
  have hclass : popClass .esc f s = escByte f (popByte s) := by
    rw [popClass_of_headIs hat hf, rxStep_of_esc hst, hstep]
  rcases hi with rfl | ⟨rfl, rfl⟩ | ⟨rfl, rfl⟩ | ⟨ht, he, rfl⟩
  · rw [exec_rEsc_of_esc hst hrun, hstep]
  · exact congrArg Host.Outcome.next hclass
  · exact congrArg Host.Outcome.next hclass
  · exact congrArg Host.Outcome.next ((if_neg (not_or.2 ⟨ht, he⟩)).trans hclass)

/-! ### The byte popped in `R_DRAIN` (R162) -/

theorem drainByte_terminator_of_zero {s : State} (hrcv : s.rx.rcv = 0) :
    drainByte terminator s = noise s := by
  rw [drainByte, if_pos rfl, if_neg (Nat.not_lt.2 hrcv.le)]

theorem drainByte_terminator_of_pos {s : State} (hrcv : 0 < s.rx.rcv) :
    drainByte terminator s = complete s := by
  rw [drainByte, if_pos rfl, if_pos hrcv]

theorem drainByte_escape (s : State) :
    drainByte escape s = { s with rx := { s.rx with state := .esc } } := by
  rw [drainByte, if_neg escape_ne_terminator, if_pos rfl]

theorem drainByte_of_ne {b : Byte} (ht : b ≠ terminator) (he : b ≠ escape) (s : State) :
    drainByte b s = deliver b s := by
  rw [drainByte, if_neg ht, if_neg he]

/-- `Noise()` leaves a SLIP call alone (R164). -/
theorem noise_of_slip {s : State} (hm : s.rx.mode = .slip) : noise s = s := by
  rw [noise, hm]

/-- `Noise()` makes a SLIPMUX call wait for a Type (R199). -/
theorem noise_of_slipmux {s : State} (hm : s.rx.mode = .slipmux) :
    noise s = { s with rx := { s.rx with first := true, typeValid := false } } := by
  rw [noise, hm]

/-- `Complete()` of a SLIP call (R165, R169). -/
theorem complete_of_slip {s : State} (hm : s.rx.mode = .slip) :
    complete s =
      { s with rx := { s.rx with
          consumed := (s.rx.consumed + 1) % 2 ^ s.cfg.cw
          resLen := s.rx.rcv, resComplete := true, resTypeValid := false, resType := 0#8,
          resPending := false, done := true, state := .idle } } := by
  simp only [complete, result, completedLength, hm, modAdd]

/-- `Complete()` of a SLIPMUX call (R201, R202). -/
theorem complete_of_slipmux {s : State} (hm : s.rx.mode = .slipmux) :
    complete s =
      { s with
        rx := { s.rx with
          consumed := (s.rx.consumed + 1) % 2 ^ s.cfg.cw
          resLen :=
            if s.rx.typeValid = true ∧ s.rx.typeReg = s.cfg.chkType ∧ 2 ≤ s.rx.rcv then
              s.rx.rcv - 2
            else s.rx.rcv
          resComplete := true, resTypeValid := s.rx.typeValid, resType := s.rx.typeReg,
          resPending := false, done := true, state := .idle }
        locks := { s.locks with rxLock := false } } := by
  simp [complete, result, completedLength, hm, modAdd]

/-- Settles O36: the row pops the terminator, and whether a byte is stored decides between noise and
completion, each with its record per mode. -/
theorem drainOfATerminator : Obligations.DrainOfATerminator := by
  intro s i hi hat hb
  have hrow : drainRowOf terminator i := hi.imp_right fun h => .inl ⟨rfl, h⟩
  rw [exec_of_drainRowOf hrow hat hb]
  refine ⟨fun (hrcv : (popByte s).rx.rcv = 0) (hm : (popByte s).rx.mode = .slip) => ?_,
    fun (hrcv : (popByte s).rx.rcv = 0) (hm : (popByte s).rx.mode = .slipmux) => ?_,
    fun (hrcv : 0 < (popByte s).rx.rcv) (hm : (popByte s).rx.mode = .slip) => ?_,
    fun (hrcv : 0 < (popByte s).rx.rcv) (hm : (popByte s).rx.mode = .slipmux) => ?_⟩
  · rw [drainByte_terminator_of_zero hrcv, noise_of_slip hm]
  · rw [drainByte_terminator_of_zero hrcv, noise_of_slipmux hm]
  · rw [drainByte_terminator_of_pos hrcv, complete_of_slip hm]
    rfl
  · rw [drainByte_terminator_of_pos hrcv, complete_of_slipmux hm]
    rfl

/-! ### The byte delivered (R166 to R168, R200) -/

theorem setState_self {s : State} {st : RxState} (h : s.rx.state = st) :
    { s with rx := { s.rx with state := st } } = s := by
  subst h
  rfl

theorem deliver_state (d : Byte) (s : State) : (deliver d s).rx.state = s.rx.state := by
  rcases deliver_cases d s with ⟨_, _, h⟩ | ⟨_, h⟩ <;> rw [h]
  rcases store_cases d s with ⟨_, h⟩ | ⟨_, h⟩ <;> rw [h]

/-- `Deliver(d)`, with the engine then in `R_DRAIN`; the offset of a byte stored does not wrap below the
capacity's range (R40, R167, R168, R200). -/
theorem setState_deliver_eq_deliveredTo {s : State} (hcap : s.rx.cap < 2 ^ s.cfg.lw) (d : Byte) :
    { deliver d s with rx := { (deliver d s).rx with state := .drain } } = deliveredTo d s := by
  rw [deliveredTo]
  rcases deliver_cases d s with ⟨hm, hfirst, h⟩ | ⟨hstored, h⟩ <;> rw [h]
  · rw [if_pos ⟨hm, hfirst⟩]
  · have hno : ¬(s.rx.mode = .slipmux ∧ s.rx.first = true) := by
      rintro ⟨hm, hfirst⟩
      rcases hstored with h | h
      · exact nomatch hm.symm.trans h
      · exact nomatch hfirst.symm.trans h
    rw [if_neg hno]
    rcases store_cases d s with ⟨hlt, h⟩ | ⟨hle, h⟩ <;> rw [h]
    · rw [if_pos hlt, modAdd, Nat.mod_eq_of_lt (Nat.lt_of_le_of_lt hlt hcap)]
    · rw [if_neg (Nat.not_lt.2 hle)]

/-- `R_ESC` delivers the unescaped follower and goes back to `R_DRAIN` (R166). -/
theorem escByte_eq_deliveredTo {s : State} (hcap : s.rx.cap < 2 ^ s.cfg.lw) (f : Byte) :
    escByte f s = deliveredTo (unesc f) s :=
  setState_deliver_eq_deliveredTo hcap (unesc f)

/-- `R_DRAIN` delivers any byte but the two reserved ones and stays (R167). -/
theorem drainByte_eq_deliveredTo {s : State} (hst : s.rx.state = .drain)
    (hcap : s.rx.cap < 2 ^ s.cfg.lw) {b : Byte} (ht : b ≠ terminator) (he : b ≠ escape) :
    drainByte b s = deliveredTo b s := by
  rw [drainByte_of_ne ht he, ← setState_deliver_eq_deliveredTo hcap,
    setState_self ((deliver_state b s).trans hst)]

/-- Settles O38: the row pops the byte, and what is neither reserved byte is delivered. -/
theorem drainOfOtherBytes : Obligations.DrainOfOtherBytes := by
  refine ⟨fun s i hi hat hb => ?_, fun s b i hi hat hcap hb ht he => ?_⟩
  · have hrow : drainRowOf escape i := hi.imp_right fun h => .inr (.inl ⟨rfl, h⟩)
    rw [exec_of_drainRowOf hrow hat hb, drainByte_escape]
  · have hrow : drainRowOf b i := hi.imp_right fun h => .inr (.inr ⟨ht, he, h⟩)
    rw [exec_of_drainRowOf hrow hat hb,
      drainByte_eq_deliveredTo (s := popByte s) (rxAt_eq hat).1 hcap ht he]

/-- Settles O39: the row pops the follower and delivers it unescaped; on an empty queue the step ends
the call. -/
theorem escStepDeliversTheFollower : Obligations.EscStepDeliversTheFollower := by
  refine ⟨fun s f i hi hat hcap hf => ?_, fun s hat he => ?_⟩
  · rw [exec_of_escRowOf hi hat hf, escByte_eq_deliveredTo (s := popByte s) hcap, unesc]
  · obtain ⟨hst, hrun⟩ := rxAt_eq hat
    rw [exec_rEsc_of_esc hst hrun, escStep_of_empty he]

end Sys2Proof.Machine
end

section
/-! A whole quiescent `SLIP_DEC` call (spec/43_slip_decode.md R160 to R172): what the engine pops is the
visible queue byte by byte, and its steps are the turns of `slipDec`'s loop. -/

namespace Sys2Proof.Machine

/- As in the tests: side by side these proofs take more threads than the check has memory for. -/
set_option Elab.async false

/-! ### The visible queue (R62, R172) -/

theorem visibleQueue_of_queueOf_eq {s t : State} (h : queueOf t = queueOf s) :
    visibleQueue t = visibleQueue s :=
  congrArg (fun q : QueuePart => (q.pushTrace.take q.iw).drop q.pops) h

theorem QueueInv.length_visibleQueue {s : State} (hs : QueueInv s) :
    (visibleQueue s).length = s.ghost.iw - s.ghost.pops := by
  rw [visibleQueue, List.length_drop, List.length_take, hs.pushTrace_length,
    Nat.min_eq_left hs.iw_le_pushes]

/-- The queue looks empty exactly when nothing in it is visible (R67). -/
theorem QueueInv.visibleQueue_eq_nil_iff {s : State} (hs : QueueInv s) :
    visibleQueue s = [] ↔ emptyR s = true := by
  have hle := hs.pops_le_iw
  rw [← List.length_eq_zero_iff, hs.length_visibleQueue, hs.emptyR_iff]
  omega

/-- A pop takes the first visible byte (R62, R65). -/
theorem QueueInv.visibleQueue_eq_cons {s : State} (hs : QueueInv s) (he : emptyR s = false) :
    visibleQueue s = headByte s :: visibleQueue (Machine.popByte s) := by
  have hlt := hs.pops_lt_of_not_empty he
  have hhead : (s.ghost.pushTrace.take s.ghost.iw)[s.ghost.pops]? = some (headByte s) := by
    rw [List.getElem?_take_of_lt hlt, hs.headByte_eq he]
  obtain ⟨hlen, hget⟩ := List.getElem?_eq_some_iff.1 hhead
  exact (List.drop_eq_getElem_cons hlen).trans (congrArg (· :: _) hget)

/-! ### The loop of `slipDec` (R172), turn by turn -/

theorem slipLoop_nil (cap : Nat) (out : List Byte) :
    slipLoop cap [] out =
      { out, len := out.length, type := none, complete := false, rest := [], fatal := true } := by
  rw [slipLoop]

theorem slipLoop_terminator_of_pos (cap : Nat) (q : List Byte) {out : List Byte}
    (hout : 0 < out.length) :
    slipLoop cap (terminator :: q) out =
      { out, len := out.length, type := none, complete := true, rest := q, fatal := false } := by
  rw [slipLoop.eq_def]
  exact (if_pos rfl).trans (if_pos hout)

theorem slipLoop_terminator_of_not_pos (cap : Nat) (q : List Byte) {out : List Byte}
    (hout : ¬ 0 < out.length) : slipLoop cap (terminator :: q) out = slipLoop cap q out := by
  rw [slipLoop.eq_def]
  exact (if_pos rfl).trans (if_neg hout)

theorem slipLoop_escape_nil (cap : Nat) (out : List Byte) :
    slipLoop cap [escape] out =
      { out, len := out.length, type := none, complete := false, rest := [], fatal := false } := by
  rw [slipLoop.eq_def]
  exact (if_neg escape_ne_terminator).trans (if_pos rfl)

theorem slipLoop_escape_cons (cap : Nat) (f : Byte) (q out : List Byte) :
    slipLoop cap (escape :: f :: q) out = slipLoop cap q (storeTo cap (unesc f) out) := by
  rw [slipLoop.eq_def]
  exact (if_neg escape_ne_terminator).trans (if_pos rfl)

theorem slipLoop_of_ne (cap : Nat) {b : Byte} (ht : b ≠ terminator) (he : b ≠ escape)
    (q out : List Byte) : slipLoop cap (b :: q) out = slipLoop cap q (storeTo cap b out) := by
  rw [slipLoop.eq_def]
  exact (if_neg ht).trans (if_neg he)

/-! ### Runs of the decode engine -/

theorem rxRun_succ {s : State} (hrun : hostHalted s = false) (n : Nat) :
    rxRun (n + 1) s = rxRun n (rxStep s) := by
  rw [rxRun, if_neg (Bool.eq_false_iff.1 hrun)]

/-- A property that each step of the engine keeps is kept by a run. -/
theorem rxRun_keeps (P : State → Prop) (keeps : ∀ s, hostHalted s = false → P s → P (rxStep s))
    {s : State} (hs : P s) (n : Nat) : P (rxRun n s) := by
  induction n generalizing s with
  | zero => exact hs
  | succ n ih =>
    rw [rxRun]
    split
    · exact ih hs
    · rename_i hrun
      exact ih (keeps s (Bool.eq_false_iff.2 hrun) hs)

/-- An engine that is halted or idle stays as it is (R241, R253). -/
theorem rxRun_of_stopped {s : State} (h : hostHalted s = true ∨ s.rx.state = .idle) (n : Nat) :
    rxRun n s = s := by
  refine rxRun_keeps (· = s) (fun u hrun hu => ?_) rfl n
  subst hu
  rcases h with h | h
  · exact absurd h (Bool.eq_false_iff.1 hrun)
  · rw [rxStep, h]

theorem rxRun_queueInv {s : State} (hs : QueueInv s) (n : Nat) : QueueInv (rxRun n s) :=
  rxRun_keeps QueueInv (fun u hrun => (AtomicStep.rx (edge := none) u hrun).queueInv) hs n

theorem rxRun_cfg (n : Nat) (s : State) : (rxRun n s).cfg = s.cfg :=
  rxRun_keeps (·.cfg = s.cfg) (fun u _ h => (rxStep_cfg u).trans h) rfl n

theorem rxRun_views (n : Nat) (s : State) : (rxRun n s).views = s.views :=
  rxRun_keeps (·.views = s.views) (fun u _ h => (rxStep_views u).trans h) rfl n

/-! ### Inside the call -/

/-- A plain call begun in `s₀` with capacity `cap` stands in engine state `st` where `slipDec`'s loop has
`q` in front of it and has stored `out` (R172). -/
structure SlipCallAt (s₀ : State) (cap : Nat) (st : RxState) (s : State) (q out : List Byte) :
    Prop where
  queue : QueueInv s
  visible : visibleQueue s = q
  cfg_eq : s.cfg = s₀.cfg
  views_eq : s.views = s₀.views
  faults_eq : s.faults = s₀.faults
  consumed_eq : s.rx.consumed = s₀.rx.consumed
  state_eq : s.rx.state = st
  mode_eq : s.rx.mode = .slip
  done_eq : s.rx.done = false
  cap_eq : s.rx.cap = cap
  cap_lt : cap < 2 ^ s₀.cfg.lw
  rcv_eq : s.rx.rcv = out.length
  dst_eq : s.ghost.dstTrace = (List.range out.length).zip out

/-- A plain call begun in `s₀` has ended in `u` as `slipDec` says in `e` (R172). -/
structure SlipCallEnded (s₀ u : State) (e : CallEnd) : Prop where
  dst_eq : u.ghost.dstTrace = (List.range e.out.length).zip e.out
  visible : visibleQueue u = e.rest
  fatal : e.fatal = true → u.faults.hfault = .countNotZeroOnEmpty ∧ u.rx.done = false
  result : e.fatal = false →
    u.faults = s₀.faults ∧ u.rx.state = .idle ∧ u.rx.done = true ∧ u.rx.resLen = e.len ∧
      u.rx.resComplete = e.complete
  consumed_eq : u.rx.consumed =
    if e.complete = true then (s₀.rx.consumed + 1) % 2 ^ s₀.cfg.cw else s₀.rx.consumed

section
variable {s₀ s u : State} {cap n : Nat} {st : RxState} {b : Byte} {q out : List Byte} {e : CallEnd}

/-- A call that has ended does not go on. -/
theorem SlipCallEnded.rxRun (h : SlipCallEnded s₀ u e) (n : Nat) :
    SlipCallEnded s₀ (rxRun n u) e := by
  have hstopped : hostHalted u = true ∨ u.rx.state = .idle := by
    cases he : e.fatal with
    | false =>
      obtain ⟨_, hidle, _⟩ := h.result he
      exact .inr hidle
    | true =>
      obtain ⟨hfault, _⟩ := h.fatal he
      exact .inl ((hostHalted_eq_true_iff u).2 (.inl (by rw [hfault]; exact HostFault.noConfusion)))
  rw [rxRun_of_stopped hstopped]
  exact h

theorem SlipCallAt.hostHalted_eq (h : SlipCallAt s₀ cap st s q out) :
    hostHalted s = hostHalted s₀ := by
  rw [hostHalted, h.faults_eq, h.views_eq, hostHalted]

theorem SlipCallAt.countR_eq (h : SlipCallAt s₀ cap st s q out) : countR s = countR s₀ := by
  rw [countR, h.cfg_eq, h.views_eq, h.consumed_eq, countR]

theorem SlipCallAt.rx_cap_lt (h : SlipCallAt s₀ cap st s q out) : s.rx.cap < 2 ^ s.cfg.lw := by
  rw [h.cap_eq, h.cfg_eq]
  exact h.cap_lt

theorem SlipCallAt.emptyR_of_nil (h : SlipCallAt s₀ cap st s [] out) : emptyR s = true :=
  h.queue.visibleQueue_eq_nil_iff.1 h.visible

theorem SlipCallAt.emptyR_of_cons (h : SlipCallAt s₀ cap st s (b :: q) out) : emptyR s = false := by
  refine Bool.eq_false_iff.2 (mt h.queue.visibleQueue_eq_nil_iff.2 ?_)
  rw [h.visible]
  exact List.cons_ne_nil b q

theorem SlipCallAt.headByte_eq (h : SlipCallAt s₀ cap st s (b :: q) out) : headByte s = b := by
  have hcons := h.queue.visibleQueue_eq_cons h.emptyR_of_cons
  rw [h.visible] at hcons
  exact (List.cons.inj hcons).1.symm

/-- A pop takes the byte in front of the loop (R65). -/
theorem SlipCallAt.popByte (h : SlipCallAt s₀ cap st s (b :: q) out) :
    SlipCallAt s₀ cap st (popByte s) q out := by
  have hcons := h.queue.visibleQueue_eq_cons h.emptyR_of_cons
  rw [h.visible] at hcons
  exact { h with
    queue := h.queue.popByte h.emptyR_of_cons
    visible := (List.cons.inj hcons).2.symm }

theorem SlipCallAt.setState (h : SlipCallAt s₀ cap st s q out) (st' : RxState) :
    SlipCallAt s₀ cap st' { s with rx := { s.rx with state := st' } } q out :=
  { h with
    queue := QueueInv.of_queueOf_eq (s := s) rfl h.queue
    state_eq := rfl }

/-- Offsets count up from 0 as bytes are stored (R72, R168). -/
theorem zip_range_concat (out : List Byte) (d : Byte) :
    (List.range out.length).zip out ++ [(out.length, d)] =
      (List.range (out ++ [d]).length).zip (out ++ [d]) := by
  rw [List.length_append, List.length_singleton, List.range_succ,
    List.zip_append (List.length_range ..)]
  rfl

/-- A delivered byte is stored where the loop stores it, and the engine drains on (R167, R168). -/
theorem SlipCallAt.deliveredTo (h : SlipCallAt s₀ cap st s q out) (d : Byte) :
    SlipCallAt s₀ cap .drain (deliveredTo d s) q (storeTo cap d out) := by
  have hslip : ¬(s.rx.mode = .slipmux ∧ s.rx.first = true) := by
    rw [h.mode_eq]
    exact fun hmux => nomatch hmux.1
  rw [Machine.deliveredTo, if_neg hslip, storeTo, h.rcv_eq, h.cap_eq]
  split
  · exact { h with
      queue := QueueInv.of_queueOf_eq (s := s) rfl h.queue
      state_eq := rfl
      rcv_eq := (List.length_append (bs := [d])).symm
      dst_eq := by rw [← zip_range_concat, ← h.dst_eq] }
  · exact h.setState .drain

/-! ### The engine's step at each turn of the loop -/

theorem SlipCallAt.rxStep_drain (h : SlipCallAt s₀ cap .drain s (b :: q) out) :
    rxStep s = drainByte b (Machine.popByte s) := by
  rw [rxStep_of_drain h.state_eq, drainStep_of_not_empty h.emptyR_of_cons, h.headByte_eq]

/-- `R_ESC` delivers the follower unescaped (R166). -/
theorem SlipCallAt.rxStep_esc (h : SlipCallAt s₀ cap .esc s (b :: q) out) :
    SlipCallAt s₀ cap .drain (rxStep s) q (storeTo cap (unesc b) out) := by
  rw [rxStep_of_esc h.state_eq, escStep_of_not_empty h.emptyR_of_cons, h.headByte_eq,
    escByte_eq_deliveredTo h.popByte.rx_cap_lt]
  exact h.popByte.deliveredTo (unesc b)

/-- A terminator before any byte stored is noise (R164). -/
theorem SlipCallAt.rxStep_noise (h : SlipCallAt s₀ cap .drain s (terminator :: q) out)
    (hout : ¬ 0 < out.length) : SlipCallAt s₀ cap .drain (rxStep s) q out := by
  have hrcv : (Machine.popByte s).rx.rcv = 0 := h.rcv_eq.trans (Nat.eq_zero_of_not_pos hout)
  rw [h.rxStep_drain, drainByte_terminator_of_zero hrcv, noise_of_slip h.popByte.mode_eq]
  exact h.popByte

/-- A popped `0xDB` waits for its follower (R163). -/
theorem SlipCallAt.rxStep_escape (h : SlipCallAt s₀ cap .drain s (escape :: q) out) :
    SlipCallAt s₀ cap .esc (rxStep s) q out := by
  rw [h.rxStep_drain, drainByte_escape]
  exact h.popByte.setState .esc

/-- Any other byte is delivered unchanged (R167). -/
theorem SlipCallAt.rxStep_other (h : SlipCallAt s₀ cap .drain s (b :: q) out) (ht : b ≠ terminator)
    (he : b ≠ escape) : SlipCallAt s₀ cap .drain (rxStep s) q (storeTo cap b out) := by
  rw [h.rxStep_drain, drainByte_eq_deliveredTo h.popByte.state_eq h.popByte.rx_cap_lt ht he]
  exact h.popByte.deliveredTo b

/-- A terminator after a byte stored completes the call (R165). -/
theorem SlipCallAt.rxStep_complete (h : SlipCallAt s₀ cap .drain s (terminator :: q) out)
    (hout : 0 < out.length) :
    SlipCallEnded s₀ (rxStep s)
      { out, len := out.length, type := none, complete := true, rest := q, fatal := false } := by
  have hrcv : 0 < (Machine.popByte s).rx.rcv := h.rcv_eq ▸ hout
  rw [h.rxStep_drain, drainByte_terminator_of_pos hrcv]
  have hpop := h.popByte
  refine ⟨?_, ?_, nofun, fun _ => ?_, ?_⟩
  · rw [complete_ghost]; exact hpop.dst_eq
  · rw [visibleQueue_of_queueOf_eq (queueOf_complete _)]; exact hpop.visible
  · rw [complete_of_slip hpop.mode_eq]
    exact ⟨hpop.faults_eq, rfl, rfl, hpop.rcv_eq, rfl⟩
  · rw [complete_of_slip hpop.mode_eq, ← h.cfg_eq, ← h.consumed_eq]
    rfl

/-- A result that is not complete ends the call with the bytes stored (R169). -/
theorem SlipCallAt.partialResult (h : SlipCallAt s₀ cap st s [] out) :
    SlipCallEnded s₀ (partialResult s)
      { out, len := out.length, type := none, complete := false, rest := [], fatal := false } := by
  rw [Machine.partialResult, h.mode_eq]
  exact ⟨h.dst_eq, h.visible, nofun, fun _ => ⟨h.faults_eq, rfl, rfl, h.rcv_eq, rfl⟩, h.consumed_eq⟩

/-- `R_ESC` on an empty queue does not test the count (R166). -/
theorem SlipCallAt.rxStep_esc_nil (h : SlipCallAt s₀ cap .esc s [] out) :
    SlipCallEnded s₀ (rxStep s)
      { out, len := out.length, type := none, complete := false, rest := [], fatal := false } := by
  rw [rxStep_of_esc h.state_eq, escStep_of_empty h.emptyR_of_nil]
  exact h.partialResult

/-- `R_DRAIN` on an empty queue with a count is the fatal exit (R162, R240). -/
theorem SlipCallAt.rxStep_fatal (h : SlipCallAt s₀ cap .drain s [] out)
    (hrun : hostHalted s₀ = false) (hcount : countR s₀ ≠ 0) :
    SlipCallEnded s₀ (rxStep s)
      { out, len := out.length, type := none, complete := false, rest := [], fatal := true } := by
  have hfault : s.faults.hfault = .none :=
    ((hostHalted_eq_false_iff s).1 (h.hostHalted_eq.trans hrun)).1
  rw [rxStep_of_drain h.state_eq,
    drainStep_of_count_ne_zero h.emptyR_of_nil (h.countR_eq ▸ hcount) hfault]
  exact ⟨h.dst_eq, h.visible, fun _ => ⟨rfl, h.done_eq⟩, nofun, h.consumed_eq⟩

/-! ### The call -/

/-- A run of a call that goes on is the engine's step and the rest of the run. -/
theorem SlipCallAt.ended_of_rxStep (h : SlipCallAt s₀ cap st s q out) (hrun : hostHalted s₀ = false)
    (hn : 0 < n) (hrest : SlipCallEnded s₀ (rxRun (n - 1) (rxStep s)) e) :
    SlipCallEnded s₀ (rxRun n s) e := by
  obtain ⟨m, rfl⟩ := Nat.exists_eq_succ_of_ne_zero hn.ne'
  rw [rxRun_succ (h.hostHalted_eq.trans hrun)]
  exact hrest

/-- The engine alone runs through the loop: one step for each visible byte it pops, and one more where
the call does not end with a terminator.  By induction along the loop. -/
theorem SlipCallAt.ended_of_rxRun (hrun : hostHalted s₀ = false) (hcount : countR s₀ ≠ 0)
    (h : SlipCallAt s₀ cap .drain s q out)
    (hn : q.length + (!(slipLoop cap q out).complete).toNat ≤ n) :
    SlipCallEnded s₀ (rxRun n s) (slipLoop cap q out) := by
  induction q, out using slipLoop.induct (cap := cap) generalizing s n with
  | case1 out =>
    have hend := h.rxStep_fatal hrun hcount
    rw [slipLoop_nil] at hn ⊢
    exact h.ended_of_rxStep hrun hn (hend.rxRun _)
  | case2 q out hout =>
    have hend := h.rxStep_complete hout
    rw [List.length_cons] at hn
    rw [slipLoop_terminator_of_pos cap q hout]
    exact h.ended_of_rxStep hrun (by omega) (hend.rxRun _)
  | case3 q out hout ih =>
    rw [slipLoop_terminator_of_not_pos cap q hout, List.length_cons] at hn
    rw [slipLoop_terminator_of_not_pos cap q hout]
    exact h.ended_of_rxStep hrun (by omega) (ih (h.rxStep_noise hout) (by omega))
  | case4 out _ =>
    have hesc := h.rxStep_escape
    have hend := hesc.rxStep_esc_nil
    rw [slipLoop_escape_nil, List.length_singleton] at hn
    have hn : 2 ≤ n := hn
    rw [slipLoop_escape_nil]
    exact h.ended_of_rxStep hrun (by omega)
      (hesc.ended_of_rxStep hrun (by omega) (hend.rxRun _))
  | case5 out f q _ ih =>
    have hesc := h.rxStep_escape
    rw [slipLoop_escape_cons, List.length_cons, List.length_cons] at hn
    rw [slipLoop_escape_cons]
    exact h.ended_of_rxStep hrun (by omega)
      (hesc.ended_of_rxStep hrun (by omega) (ih hesc.rxStep_esc (by omega)))
  | case6 b q out ht he ih =>
    rw [slipLoop_of_ne cap ht he, List.length_cons] at hn
    rw [slipLoop_of_ne cap ht he]
    exact h.ended_of_rxStep hrun (by omega) (ih (h.rxStep_other ht he) (by omega))

end

/-- The start step of a plain decode with a completed packet visible begins the call (R161). -/
theorem slipCallAt_startSlipDec {s : State} {cap : Nat} (q : Nat) (hs : QueueInv s)
    (hcap : cap < 2 ^ s.cfg.lw) (hcount : countR s ≠ 0) :
    SlipCallAt s cap .drain (startSlipDec q cap s) (visibleQueue s) [] := by
  rw [startSlipDec_of_count_ne_zero q hcap hcount]
  exact
    { queue := QueueInv.of_queueOf_eq (s := s) rfl hs
      visible := rfl
      cfg_eq := rfl
      views_eq := rfl
      faults_eq := rfl
      consumed_eq := rfl
      state_eq := rfl
      mode_eq := rfl
      done_eq := rfl
      cap_eq := rfl
      cap_lt := hcap
      rcv_eq := rfl
      dst_eq := rfl }

/-- With no completed packet visible the start step is the whole call (R161). -/
theorem slipCallEnded_startSlipDec {s : State} {cap : Nat} (q : Nat) (hcap : cap < 2 ^ s.cfg.lw)
    (hcount : countR s = 0) :
    SlipCallEnded s (startSlipDec q cap s) (slipDec (visibleQueue s) (countR s) cap) := by
  rw [startSlipDec_of_count_zero q hcap hcount, slipDec, if_pos hcount]
  exact ⟨rfl, rfl, nofun, fun _ => ⟨rfl, rfl, rfl, rfl, rfl⟩, rfl⟩

/-- A whole quiescent call, for any number of steps that suffices: one for each visible byte, and one
more for an end that is not complete (R172). -/
theorem slipCallEnded_rxRun_startSlipDec {s : State} {cap n : Nat} (q : Nat) (hs : QueueInv s)
    (hcap : cap < 2 ^ s.cfg.lw) (hrun : hostHalted s = false)
    (hn : (visibleQueue s).length +
      (!(slipDec (visibleQueue s) (countR s) cap).complete).toNat ≤ n) :
    SlipCallEnded s (rxRun n (startSlipDec q cap s)) (slipDec (visibleQueue s) (countR s) cap) := by
  by_cases hcount : countR s = 0
  · exact (slipCallEnded_startSlipDec q hcap hcount).rxRun n
  · rw [slipDec, if_neg hcount] at hn ⊢
    exact (slipCallAt_startSlipDec q hs hcap hcount).ended_of_rxRun hrun hcount hn

/-- Settles O40: the start step begins the call or ends it, and the engine runs through the loop. -/
theorem slipDecodeCallIsTheFunction : Obligations.SlipDecodeCallIsTheFunction := by
  rintro s q cap e hs hq hcap hmay rfl
  have hrun : hostHalted s = false := by
    obtain ⟨_, _, _, _, _, hfault, hview⟩ := hmay
    exact (hostHalted_eq_false_iff s).2 ⟨hfault, hview⟩
  have hend := slipCallEnded_rxRun_startSlipDec q hs hcap hrun
    (Nat.add_le_add_left (Bool.toNat_le _) _)
  exact ⟨_, _, exec_slipDec_of_mayStart cap hq hmay, rfl, hend.dst_eq, hend.visible, hend.fatal,
    hend.result, hend.consumed_eq⟩

end Sys2Proof.Machine
end

section
/-! What a SLIP frame comes back as (spec/43_slip_decode.md R172 to R174) and the SLIP round trip on the
machine (R173, spec/30_encoding.md R103): encode, feed the frame back, synchronise, decode. -/

namespace Sys2Proof.Machine

/- As in the tests: side by side these proofs take more threads than the check has memory for. -/
set_option Elab.async false

/-! ### Decoding a frame (R172 to R174) -/

/-- Storing a byte cuts the bytes stored to the capacity (R168). -/
theorem storeTo_take (cap : Nat) (d : Byte) (ys : List Byte) :
    storeTo cap d (ys.take cap) = (ys ++ [d]).take cap := by
  rw [storeTo, List.length_take]
  by_cases h : ys.length < cap
  · rw [if_pos (by omega), List.take_of_length_le h.le, List.take_of_length_le (by simpa using h)]
  · rw [if_neg (by omega), List.take_append_of_le_length (by omega)]

/-- The loop reads `esc(b)` as the one byte `b`. -/
theorem slipLoop_esc_append (cap : Nat) (b : Byte) (w out : List Byte) :
    slipLoop cap (esc b ++ w) out = slipLoop cap w (storeTo cap b out) := by
  by_cases ht : b = terminator
  · rw [ht, esc_terminator]
    exact slipLoop_escape_cons cap escapedTerminator w out
  · by_cases he : b = escape
    · rw [he, esc_escape]
      exact slipLoop_escape_cons cap escapedEscape w out
    · rw [esc_of_ne ht he]
      exact slipLoop_of_ne cap ht he w out

/-- The loop stores an escaped payload's bytes up to the capacity, by induction on the payload. -/
theorem slipLoop_escAll_append (cap : Nat) (x w ys : List Byte) :
    slipLoop cap (escAll x ++ w) (ys.take cap) = slipLoop cap w ((ys ++ x).take cap) := by
  induction x generalizing ys with
  | nil => rw [escAll_nil, List.nil_append, List.append_nil]
  | cons b x ih =>
    rw [escAll_cons, List.append_assoc, slipLoop_esc_append, storeTo_take, ih, List.append_assoc,
      List.singleton_append]

/-- Settles O42: the leading terminator is noise, the loop stores the payload up to the capacity, and the
closing terminator completes. -/
theorem slipDecodeInvertsTheFrame : Obligations.SlipDecodeInvertsTheFrame := by
  intro x rest count cap hx hcap hcount
  have hlen : (x.take cap).length = min cap x.length := List.length_take
  have hpos : 0 < (x.take cap).length := by
    have := List.length_pos_iff.2 hx
    omega
  have hpayload := slipLoop_escAll_append cap x (terminator :: rest) []
  rw [List.take_nil, List.nil_append, slipLoop_terminator_of_pos cap rest hpos, hlen] at hpayload
  rw [slipDec, if_neg hcount, slipFrame, List.append_assoc, List.append_assoc, List.singleton_append,
    List.singleton_append, slipLoop_terminator_of_not_pos (out := []) cap _ (Nat.lt_irrefl 0), hpayload]

/-! ### The count of a frame (R122) -/

/-- No byte of a stream without terminators is counted. -/
theorem countedIn_of_notMem {prev : Byte} {bs : List Byte} (h : terminator ∉ bs) :
    countedIn prev bs = 0 := by
  induction bs generalizing prev with
  | nil => rfl
  | cons b bs ih =>
    rw [List.mem_cons, not_or] at h
    rw [countedIn, ih h.2, beq_eq_false_iff_ne.2 (Ne.symm h.1)]
    rfl

/-- After a terminator, a frame with a payload counts its closing terminator and nothing else. -/
theorem countedIn_slipFrame {x : List Byte} (hx : x ≠ []) :
    countedIn terminator (slipFrame x) = 1 := by
  have hne : escAll x ≠ [] := fun h => hx (escAll_injective (h.trans escAll_nil.symm))
  have hlast : (escAll x).getLastD terminator ≠ terminator := by
    intro h
    rw [List.getLastD_eq_getLast?, List.getLast?_eq_some_getLast hne, Option.getD_some] at h
    exact terminator_notMem_escAll x (h ▸ List.getLast_mem hne)
  rw [slipFrame, List.append_assoc, List.singleton_append, countedIn, countedIn_concat,
    countedIn_of_notMem (terminator_notMem_escAll x), bne_iff_ne.2 hlast]
  rfl

/-! ### Feeding a stream (R103) -/

@[simp] theorem ingestByte_views (b : Byte) (s : State) : (ingestByte b s).views = s.views := by
  rcases ingestByte_cases b s with ⟨_, h⟩ | ⟨_, _, h⟩ | ⟨_, _, h⟩ <;> simp [h]

@[simp] theorem ingestByte_locks (b : Byte) (s : State) : (ingestByte b s).locks = s.locks := by
  rcases ingestByte_cases b s with ⟨_, h⟩ | ⟨_, _, h⟩ | ⟨_, _, h⟩ <;> simp [h]

@[simp] theorem ingestByte_env (b : Byte) (s : State) : (ingestByte b s).env = s.env := by
  rcases ingestByte_cases b s with ⟨_, h⟩ | ⟨_, _, h⟩ | ⟨_, _, h⟩ <;> simp [h]

@[simp] theorem ingestByte_pops (b : Byte) (s : State) :
    (ingestByte b s).ghost.pops = s.ghost.pops := by
  rcases ingestByte_cases b s with ⟨_, h⟩ | ⟨_, _, h⟩ | ⟨_, _, h⟩ <;> simp [h]

/-- A property that each ingested byte keeps is kept by a stream. -/
theorem execAll_feedProgram_keeps (P : State → Prop) (keeps : ∀ b s, P s → P (ingestByte b s))
    {bs : List Byte} {s t : State} (hs : P s) (h : execAll (feedProgram bs) s = .next t) : P t := by
  induction bs generalizing s with
  | nil =>
    injection h with h
    exact h ▸ hs
  | cons b bs ih =>
    rw [execAll_feedProgram_cons] at h
    exact ih (keeps b s hs) h

/-- What ingestion leaves of a state: the host domain, its locks and its inputs, and every view. -/
structure HostSideKept (s t : State) : Prop where
  cfg_eq : t.cfg = s.cfg
  rx_eq : t.rx = s.rx
  views_eq : t.views = s.views
  locks_eq : t.locks = s.locks
  env_eq : t.env = s.env
  pops_eq : t.ghost.pops = s.ghost.pops

theorem HostSideKept.ingestByte {s t : State} (h : HostSideKept s t) (b : Byte) :
    HostSideKept s (ingestByte b t) where
  cfg_eq := (ingestByte_cfg b t).trans h.cfg_eq
  rx_eq := (ingestByte_rx b t).trans h.rx_eq
  views_eq := (ingestByte_views b t).trans h.views_eq
  locks_eq := (ingestByte_locks b t).trans h.locks_eq
  env_eq := (ingestByte_env b t).trans h.env_eq
  pops_eq := (ingestByte_pops b t).trans h.pops_eq

theorem hostSideKept_of_feed {bs : List Byte} {s t : State}
    (h : execAll (feedProgram bs) s = .next t) : HostSideKept s t :=
  execAll_feedProgram_keeps (HostSideKept s) (fun b _ hs => hs.ingestByte b)
    ⟨rfl, rfl, rfl, rfl, rfl, rfl⟩ h

/-! ### Synchronising (R74, R103) -/

/-- The state with every view caught up. -/
def synced (s : State) : State :=
  { s with
    views := { s.views with
      wptrR := s.ghost.pushes % 2 ^ (s.cfg.aw + 1)
      closedR := s.ghost.cseq.getD s.ghost.pushes 0 % 2 ^ s.cfg.cw
      rptrW := s.ghost.pops % 2 ^ (s.cfg.aw + 1) }
    ghost := { s.ghost with iw := s.ghost.pushes, ic := s.ghost.pushes, ir := s.ghost.pops } }

theorem execAll_cons_of_next {i : Instr} {is : List Instr} {s u : State}
    (h : exec i s = .next u) : execAll (i :: is) s = execAll is u := by
  rw [execAll, h]

/-- R74 admits the choices with which the views catch up. -/
theorem QueueInv.execAll_syncProgram {s : State} (hs : QueueInv s) :
    execAll (syncProgram s) s = .next (synced s) := by
  obtain ⟨hw2r, hr2w, _⟩ := synchronisersTakeTheChoice
  have hiw := hs.iw_le_pushes
  have hw := (hw2r s s.ghost.pushes s.ghost.pushes).1
    ⟨hiw, le_rfl, hs.ic_le_iw.trans hiw, le_rfl⟩
  exact (execAll_cons_of_next hw).trans
    (execAll_cons_of_next ((hr2w _ _).1 ⟨hs.ir_le_pops, le_rfl⟩))

theorem AnyStep.queueInv {edge : Option State} {mayReset : Prop} {s t : State}
    (h : AnyStep edge mayReset s t) (hs : QueueInv s) : QueueInv t := by
  cases h with
  | atomic h => exact h.queueInv hs
  | push b _ hf =>
    rw [noteCounted_pushByte_eq_pushCounted]
    exact hs.pushCounted hf false b s.w.lastByte
  | reset _ _ => exact queueInv_resetFor hs.cfg_wf _

theorem QueueInv.execAll {s t : State} {is : List Instr} (hs : QueueInv s)
    (h : execAll is s = .next t) : QueueInv t := by
  have hchain := execAll_anyChain (mayReset := True) is s t (fun _ _ => trivial) h
  clear h
  induction hchain with
  | refl => exact hs
  | tail _ hlink ih => exact hlink.queueInv ih

/-- Caught up, the host domain sees the count of the write domain (R26, R29). -/
theorem QueueInv.synced_closedR {s : State} (hs : QueueInv s) :
    (synced s).views.closedR = s.w.closed := by
  have hlast : s.ghost.cseq.getD s.ghost.pushes 0 = s.ghost.cseq.getLastD 0 := by
    rw [List.getD_eq_getElem?_getD, List.getLastD_eq_getLast?, List.getLast?_eq_getElem?,
      hs.cseq_length, Nat.add_sub_cancel]
  rw [hs.closed_eq, ← hlast]
  rfl

/-- Caught up, the host domain sees every byte pushed and not popped. -/
theorem QueueInv.visibleQueue_synced {s : State} (hs : QueueInv s) :
    visibleQueue (synced s) = s.ghost.pushTrace.drop s.ghost.pops :=
  congrArg (List.drop s.ghost.pops) (List.take_of_length_le hs.pushTrace_length.le)

/-! ### The round trip (R173) -/

/-- The queue is empty and its write side knows it, with count 0 and behind a terminator. -/
structure QuietQueue (s : State) : Prop where
  inv : QueueInv s
  empty : s.ghost.pushes = s.ghost.pops
  known : s.ghost.ir = s.ghost.pops
  count : s.w.closed = s.rx.consumed
  behind : s.w.lastByte = terminator

/-- A frame fed into a quiet queue and seen by the host domain is all that is visible, and counts once
(R62, R122). -/
theorem QuietQueue.feed_slipFrame {s : State} {x : List Byte} (hs : QuietQueue s)
    (hrun : writeHalted s = false) (hx : x ≠ []) (hfit : (slipFrame x).length ≤ s.cfg.depth) :
    ∃ t, execAll (feedProgram (slipFrame x)) s = .next t ∧ t.faults = s.faults ∧
      visibleQueue (synced t) = slipFrame x ∧
      (synced t).views.closedR = (s.rx.consumed + 1) % 2 ^ s.cfg.cw := by
  have hroom : s.ghost.pushes + (slipFrame x).length ≤ s.ghost.ir + s.cfg.depth := by
    rw [hs.empty, hs.known]
    exact Nat.add_le_add_left hfit _
  obtain ⟨t, hfeed, hclosed, _, hpushed, hfaults⟩ := countingLaw s (slipFrame x) hs.inv hrun hroom
  have ht : QueueInv t := hs.inv.execAll hfeed
  have hpops : t.ghost.pops = s.ghost.pushTrace.length := by
    rw [(hostSideKept_of_feed hfeed).pops_eq, ← hs.empty, hs.inv.pushTrace_length]
  refine ⟨t, hfeed, hfaults, ?_, ?_⟩
  · rw [ht.visibleQueue_synced, hpushed, hpops, List.drop_left]
  · rw [ht.synced_closedR, hclosed, hs.behind, countedIn_slipFrame hx, hs.count]

theorem one_lt_two_pow_cw {c : Params} (hc : c.wf = true) : 1 < 2 ^ c.cw := by
  have hpos : 1 ≤ c.depth := Nat.one_le_two_pow
  simp only [Params.wf, Bool.and_eq_true, decide_eq_true_eq] at hc
  omega

/-- One packet closed after those consumed is a count of one (R126). -/
theorem countR_of_one_closed {s : State} (hs : QueueInv s) (hmod : s.rx.consumed < 2 ^ s.cfg.cw)
    (hclosed : s.views.closedR = (s.rx.consumed + 1) % 2 ^ s.cfg.cw) : countR s = 1 := by
  have hone := one_lt_two_pow_cw hs.cfg_wf
  have hdiff := modSub_mod s.cfg.cw (s.rx.consumed + 1) s.rx.consumed (Nat.le_succ _) (by omega)
  rw [Nat.mod_eq_of_lt hmod] at hdiff
  rw [countR, hclosed, hdiff, Nat.add_sub_cancel_left]

/-- With every packet closed consumed the count is zero (R126). -/
theorem countR_of_all_consumed {s : State} {n : Nat} (hclosed : s.views.closedR = n % 2 ^ s.cfg.cw)
    (hconsumed : s.rx.consumed = n % 2 ^ s.cfg.cw) : countR s = 0 := by
  rw [countR, hclosed, hconsumed,
    modSub_mod _ n n le_rfl (by rw [Nat.sub_self]; exact Nat.two_pow_pos _), Nat.sub_self]

/-- A visible frame of a payload that fits, counted once, is decoded by as many steps as it has bytes:
the payload comes back complete, and the queue is empty with count 0 (R172, R173). -/
theorem slipDec_of_visible_slipFrame {s u : State} {cap : Nat} {x : List Byte} (q : Nat)
    (hs : QueueInv s) (hrun : hostHalted s = false) (hcap : cap < 2 ^ s.cfg.lw) (hx : x ≠ [])
    (hlen : x.length ≤ cap) (hvisible : visibleQueue s = slipFrame x)
    (hmod : s.rx.consumed < 2 ^ s.cfg.cw)
    (hclosed : s.views.closedR = (s.rx.consumed + 1) % 2 ^ s.cfg.cw)
    (hu : u = rxRun (slipFrame x).length (startSlipDec q cap s)) :
    SlipCallEnded s u
      { out := x, len := x.length, type := none, complete := true, rest := [], fatal := false } ∧
    emptyR u = true ∧ countR u = 0 := by
  have hcount : countR s ≠ 0 := by
    rw [countR_of_one_closed hs hmod hclosed]
    exact Nat.one_ne_zero
  have hdec := slipDecodeInvertsTheFrame x [] (countR s) cap hx
    ((List.length_pos_iff.2 hx).trans_le hlen) hcount
  rw [List.append_nil, ← hvisible, List.take_of_length_le hlen, Nat.min_eq_right hlen] at hdec
  have hend := slipCallEnded_rxRun_startSlipDec (n := (slipFrame x).length) q hs hcap hrun
    (by rw [hdec, hvisible]; exact le_rfl)
  rw [hdec, ← hu] at hend
  have hcfg : u.cfg = s.cfg := by rw [hu, rxRun_cfg, startSlipDec, startRx_cfg]
  have hviews : u.views = s.views := by rw [hu, rxRun_views, startSlipDec, startRx_views]
  have hqueue : QueueInv u := by
    rw [hu]
    exact rxRun_queueInv (hs.of_queueOf_eq (queueOf_startRx _ _ _ _ _)) _
  refine ⟨hend, hqueue.visibleQueue_eq_nil_iff.1 hend.visible, ?_⟩
  exact countR_of_all_consumed (by rw [hviews, hcfg, hclosed]) (by rw [hcfg]; exact hend.consumed_eq)

/-- What decides whether a plain decode may start (R161, R224, R241). -/
theorem plainMayStart_rx_of_eq {s t : State} (hrx : t.rx = s.rx) (hlocks : t.locks = s.locks)
    (hstrobes : t.env.strobes = s.env.strobes) (hfaults : t.faults = s.faults)
    (hview : t.views.wfaultH = s.views.wfaultH) (h : plainMayStart .rx s) : plainMayStart .rx t := by
  simp only [plainMayStart, engineBusy, lockHeld, requests, plainPosted, hrx, hlocks, hstrobes,
    hfaults, hview]
  exact h

theorem faultFree_iff (s : State) :
    faultFree s = true ↔ hostHalted s = false ∧ writeHalted s = false := by
  rw [faultFree, Bool.and_eq_true, Bool.not_eq_true', Bool.not_eq_true']

theorem faultFree_of_eq {s t : State} (hfaults : t.faults = s.faults)
    (hhost : t.views.wfaultH = s.views.wfaultH) (hwrite : t.views.hfaultW = s.views.hfaultW) :
    faultFree t = faultFree s := by
  simp only [faultFree, hostHalted, writeHalted, hfaults, hhost, hwrite]

/-- A frame fed into a quiet queue, seen by the host domain and decoded comes back as its payload, and the
queue is empty with count 0 again (R103, R173). -/
theorem QuietQueue.slipFrame_comes_back {s : State} {q cap : Nat} {x : List Byte}
    (hs : QuietQueue s) (hfree : faultFree s = true) (hq : q < s.cfg.nreq) (hcap : cap < 2 ^ s.cfg.lw)
    (hx : x ≠ []) (hlen : x.length ≤ cap) (hfit : (slipFrame x).length ≤ s.cfg.depth)
    (hmay : plainMayStart .rx s) :
    ∃ t2 t3 t4,
      execAll (feedProgram (slipFrame x)) s = .next t2 ∧
      execAll (syncProgram t2) t2 = .next t3 ∧
      exec (.slipDec q cap) t3 = .next t4 ∧
      (rxRun (slipFrame x).length t4).rx.resLen = x.length ∧
      (rxRun (slipFrame x).length t4).rx.resComplete = true ∧
      (rxRun (slipFrame x).length t4).rx.done = true ∧
      (rxRun (slipFrame x).length t4).ghost.dstTrace = (List.range x.length).zip x ∧
      emptyR (rxRun (slipFrame x).length t4) = true ∧
      countR (rxRun (slipFrame x).length t4) = 0 ∧
      faultFree (rxRun (slipFrame x).length t4) = true := by
  obtain ⟨t, hfeed, hfaults, hvisible, hclosed⟩ :=
    hs.feed_slipFrame ((faultFree_iff s).1 hfree).2 hx hfit
  have hkept := hostSideKept_of_feed hfeed
  have hsync := (hs.inv.execAll hfeed).execAll_syncProgram
  have hqueue : QueueInv (synced t) := (hs.inv.execAll hfeed).execAll hsync
  have hcfg : (synced t).cfg = s.cfg := hkept.cfg_eq
  have hrx : (synced t).rx = s.rx := hkept.rx_eq
  have hwfault : t.views.wfaultH = s.views.wfaultH := congrArg Views.wfaultH hkept.views_eq
  have hhfault : t.views.hfaultW = s.views.hfaultW := congrArg Views.hfaultW hkept.views_eq
  have hfree' : faultFree (synced t) = true :=
    (faultFree_of_eq (s := s) (t := synced t) hfaults hwfault hhfault).trans hfree
  have hmay' : plainMayStart .rx (synced t) :=
    plainMayStart_rx_of_eq hrx hkept.locks_eq (congrArg Env.strobes hkept.env_eq) hfaults hwfault hmay
  have hmod : s.rx.consumed < 2 ^ s.cfg.cw := by
    rw [← hs.count, hs.inv.closed_eq]
    exact Nat.mod_lt _ (Nat.two_pow_pos _)
  obtain ⟨hend, hempty, hcount⟩ := slipDec_of_visible_slipFrame q hqueue
    ((faultFree_iff _).1 hfree').1 (hcfg ▸ hcap) hx hlen hvisible
    (by rw [hrx, hcfg]; exact hmod) (by rw [hrx, hcfg]; exact hclosed) rfl
  obtain ⟨hfaults', _, hdone, hresLen, hcomplete⟩ := hend.result rfl
  have hviews : (rxRun (slipFrame x).length (startSlipDec q cap (synced t))).views =
      (synced t).views := by rw [rxRun_views, startSlipDec, startRx_views]
  refine ⟨t, synced t, _, hfeed, hsync, exec_slipDec_of_mayStart cap (hcfg ▸ hq) hmay', hresLen,
    hcomplete, hdone, hend.dst_eq, hempty, hcount, ?_⟩
  rw [faultFree_of_eq hfaults' (congrArg Views.wfaultH hviews) (congrArg Views.hfaultW hviews)]
  exact hfree'

/-- Settles O44: the encode call emits the frame and leaves the queue quiet, and the frame fed back comes
back as its payload. -/
theorem slipRoundTrip : Obligations.SlipRoundTrip := by
  intro s q cap x hs hslots hfree hq hcap hxpos hxcap hfit hmayTx hmayRx hsink hempty hknown hcount
    hlast
  have hready : txReady s = true := by
    obtain ⟨_, _, _, _, _, hfault, hview⟩ := hmayTx
    rw [txReady, hsink, (hostHalted_eq_false_iff s).2 ⟨hfault, hview⟩]
    rfl
  obtain ⟨r, hencode, _⟩ :=
    (slipCallBegun_startTx hslots hq (hxcap.trans_lt hcap)).txRun_slipFrame hready
  have hquiet : QuietQueue (emitted (slipFrame x) r
      (startTx .slip q 0#8 x.length (setTxPort q 0#8 x.length x s))) :=
    ⟨QueueInv.of_queueOf_eq (s := s) rfl hs, hempty, hknown, hcount, hlast⟩
  obtain ⟨t2, t3, t4, hdecode⟩ :=
    hquiet.slipFrame_comes_back hfree hq hcap (List.length_pos_iff.1 hxpos) hxcap hfit hmayRx
  exact ⟨_, _, t2, t3, t4, exec_slipEnc_of_mayStart _ x hq hmayTx, hencode.symm, rfl, hdecode⟩

end Sys2Proof.Machine
end

section
/-! The encode engine's part of a SLIPMUX call, step by step (spec/44_slipmux_encode.md R181 to R187): the
grant that starts the call, the checksum after the payload, and the Type-class rows in both
directions. -/

namespace Sys2Proof.Machine

/-! ### The grant of the transmit lock (R181, R217) -/

/-- The lock is free, the engine idle and the host domain running: a posted request may be granted
(R217). -/
theorem grantable_tx_of_free {s : State} {q : Nat} (hreq : requested .tx q s = true)
    (hlock : s.locks.txLock = false) (hst : s.tx.state = .idle) (hrun : hostHalted s = false) :
    grantable .tx q s = true := by
  rw [grantable, unavailable, lockHeld, engineBusy, hreq, hlock, hst, hrun]
  rfl

/-- The grant of a grantable transmit request starts its call (R217). -/
theorem exec_lockGrant_tx_of_grantable {s : State} {q : Nat} (hq : q < s.cfg.nreq)
    (h : grantable .tx q s = true) : exec (.lockGrant .tx q) s = .next (grantTx q s) :=
  (withSlot_of_lt _ hq).trans (congrArg _ (if_pos h))

theorem txPortOf_of_getElem? {s : State} {q : Nat} {port : TxPort}
    (hport : s.env.txCmd[q]? = some port) : txPortOf q s = port := by
  rw [txPortOf, List.getD_eq_getElem?_getD, hport, Option.getD_some]

/-- Settles O48: the request is grantable, and the grant latches the command on its port, whose length
fits its wires. -/
theorem transmitGrantStartsTheCall : Obligations.TransmitGrantStartsTheCall := by
  intro s q port hq hreq hlock hst hrun hport hlen
  rw [exec_lockGrant_tx_of_grantable hq (grantable_tx_of_free hreq hlock hst hrun), grantTx,
    txPortOf_of_getElem? hport]
  simp only [startTx, onLwWires_of_lt hlen]
  rfl

/-! ### The checksum bytes (R96, R184 to R187) -/

/-- The low byte of the complemented frame-check value (R96). -/
theorem fcsLow_eq (fcs : Fcs) : fcsLow fcs = (~~~fcs).setWidth 8 := rfl

/-- The high byte of the complemented frame-check value (R96). -/
theorem fcsHigh_eq (fcs : Fcs) : fcsHigh fcs = ((~~~fcs) >>> 8).setWidth 8 := rfl

/-- Steps `T_CLO` and `T_CHI` emit the first byte of `esc(b)`: the second waits, or the byte is done
(R184, R186). -/
theorem sinkWrite_stuffRegs_state (b : Byte) (second next : TxState) (s : State) :
    sinkWrite (stuffFirst b)
        { s with tx := stuffRegs b second (fun r => { r with state := next }) s.tx } =
      emitted [if b = terminator ∨ b = escape then escape else b]
        { s.tx with
          hold := (stuffSecond b).getD s.tx.hold
          state := if b = terminator ∨ b = escape then second else next } s := by
  rcases stuffRegs_cases b second (fun r => { r with state := next }) s.tx with
    ⟨rfl, he⟩ | ⟨rfl, he⟩ | ⟨ht, hn, he⟩
  · rw [he]; rfl
  · rw [he]; rfl
  · rw [he, stuffFirst, stuffSecond]
    simp only [if_neg (not_or.2 ⟨ht, hn⟩), if_neg ht, if_neg hn]
    rfl

/-- Settles O28: the four steps are enabled; `T_CLO` and `T_CHI` put one half of the complemented value
each through `esc`, `T_CLO2` and `T_CHI2` emit the byte that waits. -/
theorem checksumSteps : Obligations.ChecksumSteps := by
  refine ⟨fun s b => ⟨fun h hb => ?_, fun h hb => ?_⟩, fun s => ⟨fun h => ?_, fun h => ?_⟩⟩
  · obtain rfl : fcsLow s.tx.fcs = b := (fcsLow_eq _).trans hb.symm
    rw [← getD_stuffSecond]
    exact congrArg Host.Outcome.next
      ((whenTxAt_of_txAt cloStep h).trans (sinkWrite_stuffRegs_state _ .clo2 .chi s))
  · obtain rfl : fcsHigh s.tx.fcs = b := (fcsHigh_eq _).trans hb.symm
    rw [← getD_stuffSecond]
    exact congrArg Host.Outcome.next
      ((whenTxAt_of_txAt chiStep h).trans (sinkWrite_stuffRegs_state _ .chi2 .trail s))
  · exact congrArg Host.Outcome.next (whenTxAt_of_txAt clo2Step h)
  · exact congrArg Host.Outcome.next (whenTxAt_of_txAt chi2Step h)

/-- The escaped checksum of the engine's frame-check value, low byte first (R184, R186). -/
def escapedChecksum (r : TxRegs) : List Byte := esc (fcsLow r.fcs) ++ esc (fcsHigh r.fcs)

/-- The registers behind the checksum (R186, R187). -/
def afterChecksum (r : TxRegs) : TxRegs :=
  { holdFor (fcsHigh r.fcs) (holdFor (fcsLow r.fcs) r) with state := .trail }

theorem stuffedByte_of_clo {s : State} (hst : s.tx.state = .clo) :
    stuffedByte s = some (fcsLow s.tx.fcs) := by
  rw [stuffedByte, hst]

/-- The low byte stuffed leaves the frame-check value, so the high byte is stuffed next (R184, R186). -/
theorem stuffWhole_low {s : State} (hst : s.tx.state = .clo) :
    (stuffWhole s).tx.state = .chi ∧
      stuffedByte (stuffWhole s) = some (fcsHigh s.tx.fcs) := by
  rw [stuffWhole_of_clo hst (stuffedByte_of_clo hst)]
  exact ⟨rfl, rfl⟩

/-- Two stuffed bytes are the whole checksum (R184 to R187). -/
theorem stuffWhole_stuffWhole_of_clo {s : State} (hst : s.tx.state = .clo) :
    stuffWhole (stuffWhole s) = emitted (escapedChecksum s.tx) (afterChecksum s.tx) s := by
  obtain ⟨hchi, hhigh⟩ := stuffWhole_low hst
  rw [stuffWhole_of_chi hchi hhigh, stuffWhole_of_clo hst (stuffedByte_of_clo hst),
    emitEsc_eq_emitted, emitEsc_eq_emitted, emitted_emitted]
  rfl

/-! ### The Type classes (R91, R182, R201; log 10) -/

theorem txHasType_of_mode {s : State} {t : Byte} (hready : txReady s = true)
    (hmode : s.tx.mode = .slipmux) (ht : s.tx.type = t) : txHasType t s = true := by
  rw [txHasType, hready, hmode, ht, beq_self_eq_true, beq_self_eq_true]
  rfl

/-- The rows of a Type's class are `T_TYPE` where the engine stands there (R182, R183). -/
theorem exec_typeClassRow_tx_of_type {s : State} {t : Byte} {i : Instr}
    (hi : (t = s.cfg.chkType ∧ i = .typeChecksum .tx t) ∨
      (t ≠ s.cfg.chkType ∧ i = .typePlain .tx t))
    (hready : txReady s = true) (htype : txHasType t s = true) (hst : s.tx.state = .type) :
    exec i s = .next (typeStep s) := by
  have hat : txAt .type s = true := by rw [txAt, hst, hready]; rfl
  rcases hi with ⟨ht, rfl⟩ | ⟨ht, rfl⟩ <;> refine congrArg Host.Outcome.next ?_
  · rw [if_neg (not_not.2 ht)]
    simp only [if_pos htype, hst]
  · rw [if_neg ht]
    exact (if_pos htype).trans (whenTxAt_of_txAt typeStep hat)

/-- The checksum row behind the payload stuffs both bytes of the checksum (R184 to R187). -/
theorem exec_typeChecksum_tx_of_clo {s : State} {t : Byte} (ht : t = s.cfg.chkType)
    (htype : txHasType t s = true) (hst : s.tx.state = .clo) :
    exec (.typeChecksum .tx t) s = .next (emitted (escapedChecksum s.tx) (afterChecksum s.tx) s) := by
  rw [← stuffWhole_stuffWhole_of_clo hst]
  refine congrArg Host.Outcome.next ?_
  rw [if_neg (not_not.2 ht)]
  simp only [if_pos htype, hst]

/-- The rows of a Type's class complete the frame where the decode engine is about to (R201). -/
theorem exec_typeClassRow_rx_of_completes {s : State} {t : Byte} {i : Instr}
    (hi : (t = s.cfg.chkType ∧ i = .typeChecksum .rx t) ∨
      (t ≠ s.cfg.chkType ∧ i = .typePlain .rx t))
    (hcompletes : rxCompletesType t s = true) : exec i s = .next (drainStep s) := by
  rcases hi with ⟨ht, rfl⟩ | ⟨ht, rfl⟩ <;> refine congrArg Host.Outcome.next ?_
  · exact (if_neg (not_not.2 ht)).trans (if_pos hcompletes)
  · exact (if_neg ht).trans (if_pos hcompletes)

theorem rxCompletesType_of_headIs {s : State} (hat : rxAt .drain s = true)
    (hb : headIs terminator s) (hrcv : 0 < s.rx.rcv) (hmode : s.rx.mode = .slipmux)
    (hvalid : s.rx.typeValid = true) : rxCompletesType s.rx.typeReg s = true := by
  simp [rxCompletesType, hat, hb.1, headByte_of_headIs hb, hrcv, hmode, hvalid]

/-- A terminator popped after something was stored completes a SLIPMUX frame (R162, R201). -/
theorem drainStep_of_completing {s : State} (hb : headIs terminator s) (hrcv : 0 < s.rx.rcv) :
    drainStep s = complete (popByte s) := by
  rw [drainStep_of_not_empty hb.1, headByte_of_headIs hb]
  exact drainByte_terminator_of_pos hrcv

theorem holdFor_holdFor_hold (lo hi : Byte) (r : TxRegs) :
    (holdFor hi (holdFor lo r)).hold =
      if hi = 0xC0#8 then 0xDC#8
      else if hi = 0xDB#8 then 0xDD#8
      else if lo = 0xC0#8 then 0xDC#8
      else if lo = 0xDB#8 then 0xDD#8
      else r.hold := by
  rw [← getD_stuffSecond lo, ← getD_stuffSecond hi]
  rfl

/-- Settles O37: each row is its engine's step, and the completion strips two bytes where the Type in
`rx_type` is `CHK_TYPE`. -/
theorem typeRows : Obligations.TypeRows := by
  constructor
  · intro s t hready hmode ht
    have htype := txHasType_of_mode hready hmode ht
    refine ⟨fun hchkType hchk hst => ?_, fun lo hi hchkType hst hlo hhi => ?_,
      fun hchkType hchk hst => ?_⟩
    · rw [exec_typeClassRow_tx_of_type (.inl ⟨hchkType, rfl⟩) hready htype hst, typeStep_eq, ht,
        afterByte, hchk]
      rfl
    · rw [exec_typeChecksum_tx_of_clo hchkType htype hst, escapedChecksum, afterChecksum,
        fcsLow_eq, fcsHigh_eq, ← hlo, ← hhi, ← holdFor_holdFor_hold]
      rfl
    · rw [exec_typeClassRow_tx_of_type (.inr ⟨hchkType, rfl⟩) hready htype hst, typeStep_eq, ht,
        afterByte, hchk]
      rfl
  · rintro s t hat hb hrcv hmode hvalid rfl
    have hcompletes := rxCompletesType_of_headIs hat hb hrcv hmode hvalid
    have hend := (drainStep_of_completing hb hrcv).trans
      (complete_of_slipmux (s := popByte s) hmode)
    refine ⟨fun hchkType => ?_, fun hchkType => ?_⟩
    · rw [exec_typeClassRow_rx_of_completes (.inl ⟨hchkType, rfl⟩) hcompletes, hend]
      simp [hvalid, hchkType]
    · rw [exec_typeClassRow_rx_of_completes (.inr ⟨hchkType, rfl⟩) hcompletes, hend]
      simp [hvalid, hchkType]

end Sys2Proof.Machine
end

section
/-! A whole `SMX_ENC` call (spec/44_slipmux_encode.md R180 to R188): posted, granted, and then one emitting
step per wire byte, from the leading terminator through Type, payload and checksum to the closing
one. -/

namespace Sys2Proof.Machine

/-! ### The posting and the grant (R180, R181, R217) -/

/-- The state after the posting of an encode on a slot that may be posted on (R217). -/
def posted (q : Nat) (ty : Byte) (p : List Byte) (s : State) : State :=
  setTxPort q ty p.length p { s with locks := setRequest .tx q true s.locks }

theorem exec_smxEnc_of_idle {s : State} {q : Nat} (ty : Byte) (p : List Byte)
    (hq : q < s.cfg.nreq) (hrun : hostHalted s = false) (hreq : requested .tx q s = false)
    (hst : s.tx.state = .idle) : exec (.smxEnc q ty p.length p) s = .next (posted q ty p s) := by
  have hbusy : slotBusy .tx q s = false := by
    rw [slotBusy, hreq, engineBusy, hst]
    rfl
  refine (withSlot_of_lt _ hq).trans ?_
  rw [hrun, hbusy]
  rfl

/-- The posted request bit is the slot's (R33, R217). -/
theorem requested_posted {s : State} {q : Nat} (ty : Byte) (p : List Byte) (hs : SlotInv s)
    (hq : q < s.cfg.nreq) : requested .tx q (posted q ty p s) = true := by
  have hset : (s.locks.txReq.set q true)[q]? = some true :=
    List.getElem?_set_self (hs.txReq_length ▸ hq)
  exact (List.getD_eq_getElem?_getD ..).trans (congrArg (·.getD false) hset)

/-- The command stands on the slot's ports (R101). -/
theorem txPort_posted {s : State} {q : Nat} (ty : Byte) (p : List Byte) (hs : SlotInv s)
    (hq : q < s.cfg.nreq) :
    (posted q ty p s).env.txCmd[q]? = some { type := ty, len := p.length, payload := p } :=
  List.getElem?_set_self (hs.txCmd_length ▸ hq)

/-- A call's posting and its grant, with nothing in between (R180, R181). -/
theorem execAll_smxEnc_lockGrant {s : State} {q : Nat} (ty : Byte) (p : List Byte) (hs : SlotInv s)
    (hq : q < s.cfg.nreq) (hrun : hostHalted s = false) (hreq : requested .tx q s = false)
    (hst : s.tx.state = .idle) (hlock : s.locks.txLock = false) :
    execAll [.smxEnc q ty p.length p, .lockGrant .tx q] s =
      .next (grantTx q (posted q ty p s)) := by
  have hgrant : grantable .tx q (posted q ty p s) = true :=
    grantable_tx_of_free (requested_posted ty p hs hq) hlock hst hrun
  exact (execAll_cons_of_next (exec_smxEnc_of_idle ty p hq hrun hreq hst)).trans
    (execAll_cons_of_next (exec_lockGrant_tx_of_grantable (s := posted q ty p s) hq hgrant))

/-- A SLIPMUX call stands before its first byte, with Type `ty` and the payload `p` to emit (R181). -/
structure SmxCallBegun (s : State) (ty : Byte) (p : List Byte) : Prop where
  state_eq : s.tx.state = .lead
  mode_eq : s.tx.mode = .slipmux
  type_eq : s.tx.type = ty
  chk_iff : s.tx.chk = true ↔ ty = s.cfg.chkType
  fcs_eq : s.tx.fcs = s.cfg.crcInit
  idx_eq : s.tx.idx = 0
  left : PayloadLeft s p

/-- The grant begins the posted call (R181). -/
theorem smxCallBegun_grantTx {s : State} {q : Nat} {p : List Byte} (ty : Byte) (hs : SlotInv s)
    (hq : q < s.cfg.nreq) (hlen : p.length < 2 ^ s.cfg.lw) :
    SmxCallBegun (grantTx q (posted q ty p s)) ty p := by
  have hport := txPort_posted ty p hs hq
  have hwires : onLwWires s.cfg p.length = p.length := onLwWires_of_lt hlen
  rw [grantTx, txPortOf_of_getElem? hport]
  refine ⟨rfl, rfl, rfl, beq_iff_eq, rfl, rfl, ⟨_, hport, rfl⟩, ?_, ?_⟩
  · exact (Nat.zero_add _).trans hwires.symm
  · exact hwires.trans_lt hlen

/-! ### The bytes before and behind the payload (R152, R155, R182 to R187) -/

/-- The leading terminator of a SLIPMUX frame (R152). -/
theorem txRun_lead_slipmux {s : State} (hready : txReady s = true) (hst : s.tx.state = .lead)
    (hmode : s.tx.mode = .slipmux) :
    txRun 1 s = emitted [terminator] { s.tx with state := .type } s := by
  rw [txRun_one hready, txStep, hst]
  simp only [leadStep_eq, hmode, if_true]

/-- The registers behind the Type byte (R183). -/
def afterType (r : TxRegs) : TxRegs :=
  { r with
    fcs := if r.chk = true then Config.crcUpdate r.fcs r.type else r.fcs
    state := afterByte r 0 }

theorem txRun_type {s : State} (hready : txReady s = true) (hst : s.tx.state = .type) :
    txRun 1 s = emitted [s.tx.type] (afterType s.tx) s := by
  rw [txRun_one hready, txStep, hst]
  exact typeStep_eq s

/-- The Type goes out raw behind the terminator (R152, R183). -/
theorem SmxCallBegun.txRun_lead_type {s : State} {ty : Byte} {p : List Byte}
    (h : SmxCallBegun s ty p) (hready : txReady s = true) :
    txRun [terminator, ty].length s = emitted [terminator, ty] (afterType s.tx) s := by
  have htype := txRun_type (s := emitted [terminator] { s.tx with state := .type } s) hready rfl
  rw [← List.singleton_append, txRun_length_append, List.length_singleton, List.length_singleton,
    txRun_lead_slipmux hready h.state_eq h.mode_eq, htype, emitted_emitted, ← h.type_eq]
  rfl

/-- What the engine emits between the payload and the closing terminator (R182, R188). -/
def checksumPart (r : TxRegs) : List Byte := if r.chk = true then escapedChecksum r else []

/-- As many steps as the escaped checksum has bytes emit it (R184 to R187). -/
theorem txRun_escapedChecksum {s : State} (hready : txReady s = true) (hst : s.tx.state = .clo) :
    txRun (escapedChecksum s.tx).length s = emitted (escapedChecksum s.tx) (afterChecksum s.tx) s := by
  have hlow := txRun_length_esc hready (stuffedByte_of_clo hst)
  have hready' : txReady (stuffWhole s) = true := (chain_stuffWhole (edge := none) s hready).2
  rw [← stuffWhole_stuffWhole_of_clo hst, escapedChecksum, txRun_length_append, hlow,
    txRun_length_esc hready' (stuffWhole_low hst).2]

/-- Behind the payload the checksum goes out where the frame has one, and the engine then stands before
the closing terminator (R182 to R187). -/
theorem txRun_checksumPart {s : State} (hready : txReady s = true)
    (hst : s.tx.state = afterByte s.tx s.tx.len) :
    ∃ r, txRun (checksumPart s.tx).length s = emitted (checksumPart s.tx) r s ∧
      r.state = .trail ∧ r.mode = s.tx.mode := by
  rcases afterByte_cases s.tx s.tx.len with ⟨hlt, _⟩ | ⟨_, hchk, he⟩ | ⟨_, hchk, he⟩
  · exact absurd hlt (Nat.lt_irrefl _)
  · rw [checksumPart, if_pos hchk]
    exact ⟨_, txRun_escapedChecksum hready (hst.trans he), rfl, rfl⟩
  · rw [checksumPart, if_neg (Bool.eq_false_iff.1 hchk)]
    exact ⟨s.tx, (emitted_nil s).symm, hst.trans he, rfl⟩

/-- The transmit lock is free, and nothing else changed. -/
def txLockFreed (s : State) : State := { s with locks := { s.locks with txLock := false } }

/-- The closing terminator of a SLIPMUX frame frees the lock (R155, R220). -/
theorem txRun_trail_slipmux {s : State} (hready : txReady s = true) (hst : s.tx.state = .trail)
    (hmode : s.tx.mode = .slipmux) :
    txRun 1 s = emitted [terminator] { s.tx with done := true, state := .idle } (txLockFreed s) := by
  rw [txRun_one hready, txStep, hst]
  simp only [trailStep_eq, hmode, if_true]
  rfl

/-! ### The call (R180 to R188) -/

/-- The value folded over Type and payload is the frame's (R93, R96, R182). -/
theorem SmxCallBegun.checksumPart_afterPayload {s : State} {ty : Byte} {p : List Byte}
    (h : SmxCallBegun s ty p) (hold : Byte) :
    checksumPart (afterPayload p hold (afterType s.tx)) =
      if ty = s.cfg.chkType then checksumField s.cfg ty p else [] := by
  by_cases hty : ty = s.cfg.chkType
  · have hchk : s.tx.chk = true := h.chk_iff.2 hty
    have hfcs : (afterPayload p hold (afterType s.tx)).fcs = crcFold s.cfg.crcInit (ty :: p) := by
      simp only [afterPayload, afterType, if_pos hchk, h.fcs_eq, h.type_eq, crcFold, List.foldl_cons]
    rw [if_pos hty, checksumPart, escapedChecksum, hfcs]
    exact if_pos hchk
  · rw [if_neg hty]
    exact if_neg (mt h.chk_iff.1 hty)

/-- The frame up to its closing terminator (R93). -/
def smxFrameOpen (c : Params) (ty : Byte) (p : List Byte) : List Byte :=
  [terminator, ty] ++ escAll p ++ (if ty = c.chkType then checksumField c ty p else [])

theorem smxFrame_eq_open_append (c : Params) (ty : Byte) (p : List Byte) :
    smxFrame c ty p = smxFrameOpen c ty p ++ [terminator] := rfl

/-- Up to the closing terminator: Type, payload and checksum (R152, R153, R182 to R187). -/
theorem SmxCallBegun.txRun_smxFrameOpen {s : State} {ty : Byte} {p : List Byte}
    (h : SmxCallBegun s ty p) (hready : txReady s = true) :
    ∃ r, txRun (smxFrameOpen s.cfg ty p).length s = emitted (smxFrameOpen s.cfg ty p) r s ∧
      r.state = .trail ∧ r.mode = .slipmux := by
  obtain ⟨hold, hpayload⟩ := txRun_payload (s := emitted [terminator, ty] (afterType s.tx) s) hready
    { h.left with } (congrArg (afterByte s.tx) h.idx_eq.symm)
  rw [emitted_emitted] at hpayload
  obtain ⟨r, hcheck, hst, hmode⟩ := txRun_checksumPart
    (s := emitted ([terminator, ty] ++ escAll p) (afterPayload p hold (afterType s.tx)) s) hready rfl
  refine ⟨r, ?_, hst, hmode.trans h.mode_eq⟩
  rw [smxFrameOpen, ← h.checksumPart_afterPayload hold, txRun_length_append, txRun_length_append,
    h.txRun_lead_type hready, hpayload]
  exact hcheck.trans (emitted_emitted ..)

/-- From its first byte on, a SLIPMUX call emits exactly the frame, ends and frees the lock: nothing
but the engine and the sink's trace changes besides (R93, R188, R220). -/
theorem SmxCallBegun.txRun_smxFrame {s : State} {ty : Byte} {p : List Byte}
    (h : SmxCallBegun s ty p) (hready : txReady s = true) :
    ∃ r, txRun (smxFrame s.cfg ty p).length s = emitted (smxFrame s.cfg ty p) r (txLockFreed s) ∧
      r.state = .idle ∧ r.done = true := by
  obtain ⟨r, hopen, hst, hmode⟩ := h.txRun_smxFrameOpen hready
  refine ⟨{ r with done := true, state := .idle }, ?_, rfl, rfl⟩
  rw [smxFrame_eq_open_append, txRun_length_append, hopen]
  exact Eq.trans (txRun_trail_slipmux hready hst hmode) (emitted_emitted (s := txLockFreed s) ..)

/-- Settles O33: posting and grant begin the call, and the call's run emits the frame, frees the lock and
leaves everything else as the grant left it. -/
theorem smxEncodeCallEmitsTheFrame : Obligations.SmxEncodeCallEmitsTheFrame := by
  intro s q ty p hs hq hlen hrun hreq hst hlock hsink
  have hready : txReady s = true := by
    rw [txReady, hsink, hrun]
    rfl
  have hcfg : (grantTx q (posted q ty p s)).cfg = s.cfg := rfl
  obtain ⟨r, hcall, hidle, hdone⟩ := (smxCallBegun_grantTx ty hs hq hlen).txRun_smxFrame hready
  refine ⟨_, execAll_smxEnc_lockGrant ty p hs hq hrun hreq hst hlock, rfl, rfl, ?_⟩
  rw [hcfg] at hcall
  rw [hcall]
  exact ⟨rfl, hidle, hdone, rfl, rfl, rfl, rfl, rfl⟩

end Sys2Proof.Machine
end

section
/-! The start of an `SMX_DEC` call (spec/45_slipmux_decode.md R195 to R197): the posting, and the
grant of the receive lock, which drains or ends the call at once. -/

namespace Sys2Proof.Machine

/-- A requested direction whose lock is free and whose engine is idle may be granted while the host
domain runs (R217). -/
theorem grantable_of_available {d : Dir} {q : Nat} {s : State} (hreq : requested d q s = true)
    (havail : unavailable d s = false) (hrun : hostHalted s = false) : grantable d q s = true := by
  rw [grantable, hreq, havail, hrun]
  rfl

theorem unavailable_rx_of_free {s : State} (hlock : s.locks.rxLock = false)
    (hst : s.rx.state = .idle) : unavailable .rx s = false := by
  rw [unavailable, lockHeld, engineBusy, hlock, hst]
  rfl

/-- The grant of a grantable receive request starts its call (R217). -/
theorem exec_lockGrant_rx_of_grantable {s : State} {q : Nat} (hq : q < s.cfg.nreq)
    (h : grantable .rx q s = true) : exec (.lockGrant .rx q) s = .next (grantRx q s) :=
  (withSlot_of_lt _ hq).trans (congrArg _ (if_pos h))

theorem rxPortOf_of_getElem? {s : State} {q : Nat} {port : RxPort}
    (hport : s.env.rxCmd[q]? = some port) : rxPortOf q s = port := by
  rw [rxPortOf, List.getD_eq_getElem?_getD, hport, Option.getD_some]

section
variable {s : State} {q : Nat} {port : RxPort}

/-- With no completed packet visible the call returns what it was given and frees the lock in the
same step (R197). -/
theorem grantRx_of_count_zero (hport : s.env.rxCmd[q]? = some port)
    (hcap : port.cap < 2 ^ s.cfg.lw) (hcount : countR s = 0) :
    grantRx q s =
      { s with
        locks :=
          { s.locks with
            rxLock := false
            rxReq := s.locks.rxReq.set q false
            rxWait := s.locks.rxWait.set q 0 }
        rx :=
          { s.rx with
            mode := .slipmux, cap := port.cap, owner := q, rcv := 0,
            first := !port.stIn.typeValid, typeValid := port.stIn.typeValid,
            typeReg := port.stIn.type, pendIn := port.stIn.pending,
            resLen := 0, resComplete := false, resTypeValid := port.stIn.typeValid,
            resType := port.stIn.type, resPending := port.stIn.pending,
            done := true, state := .idle }
        ghost :=
          { s.ghost with dstTrace := [], grants := s.ghost.grants ++ [(.rx, q)] } } := by
  rw [grantRx, rxPortOf_of_getElem? hport]
  refine (if_pos hcount).trans ?_
  simp only [startRegs, onLwWires_of_lt hcap]
  rfl

/-- With a completed packet visible the call holds the lock and drains (R196). -/
theorem grantRx_of_count_ne_zero (hport : s.env.rxCmd[q]? = some port)
    (hcap : port.cap < 2 ^ s.cfg.lw) (hcount : countR s ≠ 0) :
    grantRx q s =
      { s with
        locks :=
          { s.locks with
            rxLock := true
            rxReq := s.locks.rxReq.set q false
            rxWait := s.locks.rxWait.set q 0 }
        rx :=
          { s.rx with
            mode := .slipmux, cap := port.cap, owner := q, rcv := 0,
            first := !port.stIn.typeValid, typeValid := port.stIn.typeValid,
            typeReg := port.stIn.type, pendIn := port.stIn.pending,
            done := false, state := .drain }
        ghost :=
          { s.ghost with dstTrace := [], grants := s.ghost.grants ++ [(.rx, q)] } } := by
  rw [grantRx, rxPortOf_of_getElem? hport]
  refine (if_neg hcount).trans ?_
  simp only [startRegs, onLwWires_of_lt hcap]
  rfl

end

/-- Settles O49: the request is grantable, so it is granted, and the count decides between the two
records. -/
theorem receiveGrantStartsTheCall : Obligations.ReceiveGrantStartsTheCall := by
  intro s q port hq hreq hlock hst hrun hport hcap
  rw [exec_lockGrant_rx_of_grantable hq
    (grantable_of_available hreq (unavailable_rx_of_free hlock hst) hrun)]
  exact ⟨fun hcount => congrArg _ (grantRx_of_count_zero hport hcap hcount),
    fun hcount => congrArg _ (grantRx_of_count_ne_zero hport hcap hcount)⟩

/-! ### The posting (R195, R217) -/

/-- Slot `q` is one of the block's and asks for nothing, the receive lock is free and the decode
engine idle: a SLIPMUX decode may be posted there and granted at once (R217). -/
structure DecodeMayBeGranted (s : State) (q : Nat) : Prop where
  slots : SlotInv s
  slot_lt : q < s.cfg.nreq
  running : hostHalted s = false
  not_requested : requested .rx q s = false
  idle : s.rx.state = .idle
  unlocked : s.locks.rxLock = false

/-- The state after the posting of a decode on a slot that may be posted on (R217). -/
def postedRx (q cap : Nat) (st : DecodeState) (s : State) : State :=
  setRxPort q cap st { s with locks := setRequest .rx q true s.locks }

section
variable {s : State} {q cap : Nat} {st : DecodeState}

theorem DecodeMayBeGranted.exec_smxDec (h : DecodeMayBeGranted s q) :
    exec (.smxDec q cap st) s = .next (postedRx q cap st s) := by
  have hbusy : slotBusy .rx q s = false := by
    rw [slotBusy, h.not_requested, engineBusy, h.idle]
    rfl
  refine (withSlot_of_lt _ h.slot_lt).trans ?_
  rw [h.running, hbusy]
  rfl

theorem DecodeMayBeGranted.requested_postedRx (h : DecodeMayBeGranted s q) :
    requested .rx q (postedRx q cap st s) = true := by
  have hset : (s.locks.rxReq.set q true)[q]? = some true :=
    List.getElem?_set_self (h.slots.rxReq_length ▸ h.slot_lt)
  exact (List.getD_eq_getElem?_getD ..).trans (congrArg (·.getD false) hset)

/-- The command stands on the slot's ports (R101). -/
theorem DecodeMayBeGranted.port_postedRx (h : DecodeMayBeGranted s q) :
    (postedRx q cap st s).env.rxCmd[q]? = some { cap := cap, stIn := st } :=
  List.getElem?_set_self (h.slots.rxCmd_length ▸ h.slot_lt)

/-- The state after a decode's posting and its grant, with nothing in between (R195, R196). -/
def startSmxDec (q cap : Nat) (st : DecodeState) (s : State) : State :=
  grantRx q (postedRx q cap st s)

theorem DecodeMayBeGranted.execAll_smxDec_lockGrant (h : DecodeMayBeGranted s q) :
    execAll [.smxDec q cap st, .lockGrant .rx q] s = .next (startSmxDec q cap st s) := by
  have hgrant : grantable .rx q (postedRx q cap st s) = true :=
    grantable_of_available h.requested_postedRx (unavailable_rx_of_free h.unlocked h.idle) h.running
  exact (execAll_cons_of_next h.exec_smxDec).trans
    (execAll_cons_of_next
      (exec_lockGrant_rx_of_grantable (s := postedRx q cap st s) h.slot_lt hgrant))

end

end Sys2Proof.Machine
end

section
/-! A whole quiescent `SMX_DEC` call (spec/45_slipmux_decode.md R195 to R209): each byte the engine
pops takes `smxDec`'s loop one turn on, from `R_ESC` as well as from `R_DRAIN`. -/

namespace Sys2Proof.Machine

/- As in the tests: side by side these proofs take more threads than the check has memory for. -/
set_option Elab.async false

/-! ### The loop of `smxDec` (R209), turn by turn -/

/-- The bytes stored once `d` is delivered: the first byte of a frame is its Type and not stored
(R200). -/
def outAfter (cap : Nat) (d : Byte) (out : List Byte) (ty : Option Byte) : List Byte :=
  if ty = none then out else storeTo cap d out

/-- The Type once `d` is delivered (R200). -/
def typeAfter (d : Byte) (ty : Option Byte) : Option Byte := some (ty.getD d)

section
variable (c : Params) (cap : Nat)

theorem smxLoop_nil (out : List Byte) (ty : Option Byte) :
    smxLoop c cap [] out ty =
      { out, len := out.length, type := ty, complete := false, rest := [], fatal := true } := by
  rw [smxLoop]

theorem smxLoop_terminator_of_pos (q : List Byte) {out : List Byte} (ty : Option Byte)
    (hout : 0 < out.length) :
    smxLoop c cap (terminator :: q) out ty =
      { out, len := strippedLength c ty out.length, type := ty, complete := true, rest := q,
        fatal := false } := by
  rw [smxLoop.eq_def]
  exact (if_pos rfl).trans (if_pos hout)

theorem smxLoop_terminator_of_not_pos (q : List Byte) {out : List Byte} (ty : Option Byte)
    (hout : ¬ 0 < out.length) :
    smxLoop c cap (terminator :: q) out ty = smxLoop c cap q out none := by
  rw [smxLoop.eq_def]
  exact (if_pos rfl).trans (if_neg hout)

theorem smxLoop_escape_nil (out : List Byte) (ty : Option Byte) :
    smxLoop c cap [escape] out ty =
      { out, len := out.length, type := ty, complete := false, rest := [], fatal := false } := by
  rw [smxLoop.eq_def]
  exact (if_neg escape_ne_terminator).trans (if_pos rfl)

theorem smxLoop_escape_cons (f : Byte) (q out : List Byte) (ty : Option Byte) :
    smxLoop c cap (escape :: f :: q) out ty =
      smxLoop c cap q (outAfter cap (unesc f) out ty) (typeAfter (unesc f) ty) := by
  rw [smxLoop.eq_def]
  cases ty <;> exact (if_neg escape_ne_terminator).trans (if_pos rfl)

theorem smxLoop_of_ne {b : Byte} (ht : b ≠ terminator) (he : b ≠ escape) (q out : List Byte)
    (ty : Option Byte) :
    smxLoop c cap (b :: q) out ty = smxLoop c cap q (outAfter cap b out ty) (typeAfter b ty) := by
  rw [smxLoop.eq_def]
  cases ty <;> exact (if_neg ht).trans (if_neg he)

end

/-! ### The head of the visible queue (R62, R65) -/

theorem QueueInv.emptyR_of_visible_nil {s : State} (hs : QueueInv s) (h : visibleQueue s = []) :
    emptyR s = true := hs.visibleQueue_eq_nil_iff.1 h

/-- The first visible byte is the one a pop takes, and the others are then visible. -/
theorem QueueInv.of_visible_cons {s : State} {b : Byte} {q : List Byte} (hs : QueueInv s)
    (h : visibleQueue s = b :: q) :
    emptyR s = false ∧ headByte s = b ∧ visibleQueue (Machine.popByte s) = q := by
  have he : emptyR s = false := by
    refine Bool.eq_false_iff.2 (mt hs.visibleQueue_eq_nil_iff.2 ?_)
    rw [h]
    exact List.cons_ne_nil b q
  have hcons := hs.visibleQueue_eq_cons he
  rw [h] at hcons
  obtain ⟨hhead, hrest⟩ := List.cons.inj hcons
  exact ⟨he, hhead.symm, hrest.symm⟩

/-! ### Inside the call -/

/-- A SLIPMUX call begun in `s₀` with capacity `cap` stands in engine state `st` with `q` visible in
front of it, has stored `out` and holds the Type `ty`, if any (R200, R209). -/
structure SmxCallAt (s₀ : State) (cap : Nat) (st : RxState) (s : State) (q out : List Byte)
    (ty : Option Byte) : Prop where
  queue : QueueInv s
  visible : visibleQueue s = q
  cfg_eq : s.cfg = s₀.cfg
  views_eq : s.views = s₀.views
  faults_eq : s.faults = s₀.faults
  consumed_eq : s.rx.consumed = s₀.rx.consumed
  lock_eq : s.locks.rxLock = true
  state_eq : s.rx.state = st
  mode_eq : s.rx.mode = .slipmux
  done_eq : s.rx.done = false
  cap_eq : s.rx.cap = cap
  cap_lt : cap < 2 ^ s₀.cfg.lw
  rcv_eq : s.rx.rcv = out.length
  dst_eq : s.ghost.dstTrace = (List.range out.length).zip out
  first_eq : s.rx.first = ty.isNone
  valid_eq : s.rx.typeValid = ty.isSome
  type_eq : ∀ t ∈ ty, s.rx.typeReg = t

/-- The result of a call begun in `s₀` that ended in `u` without a fault, as `e` says, and the lock
released (R202, R209, R220). -/
structure SmxResult (s₀ u : State) (e : CallEnd) : Prop where
  faults_eq : u.faults = s₀.faults
  idle : u.rx.state = .idle
  done : u.rx.done = true
  unlocked : u.locks.rxLock = false
  len_eq : u.rx.resLen = e.len
  complete_eq : u.rx.resComplete = e.complete
  type_eq : (if u.rx.resTypeValid = true then some u.rx.resType else none) = e.type
  pending_eq : u.rx.resPending = (e.type.isSome && !e.complete)

/-- A SLIPMUX call begun in `s₀` has ended in `u` as `smxDec` says in `e` (R209). -/
structure SmxCallEnded (s₀ u : State) (e : CallEnd) : Prop where
  dst_eq : u.ghost.dstTrace = (List.range e.out.length).zip e.out
  visible : visibleQueue u = e.rest
  fatal : e.fatal = true →
    u.faults.hfault = .countNotZeroOnEmpty ∧ u.rx.done = false ∧ u.locks.rxLock = true
  result : e.fatal = false → SmxResult s₀ u e
  consumed_eq : u.rx.consumed =
    if e.complete = true then (s₀.rx.consumed + 1) % 2 ^ s₀.cfg.cw else s₀.rx.consumed

/-- A SLIPMUX call begun in `s₀` stands in `s` with `q` visible, and the loop goes on from there to
the end `e`. In `R_ESC` the loop has the popped `0xDB` still in front of it. -/
inductive SmxCallGoesTo (s₀ : State) (cap : Nat) (s : State) (q : List Byte) (e : CallEnd) :
    Prop where
  | drain (out : List Byte) (ty : Option Byte) (h : SmxCallAt s₀ cap .drain s q out ty)
      (hend : smxLoop s₀.cfg cap q out ty = e)
  | esc (out : List Byte) (ty : Option Byte) (h : SmxCallAt s₀ cap .esc s q out ty)
      (hend : smxLoop s₀.cfg cap (escape :: q) out ty = e)

section
variable {s₀ s u : State} {cap n : Nat} {st : RxState} {b : Byte} {q out : List Byte}
  {ty : Option Byte} {e : CallEnd}

theorem SmxCallAt.hostHalted_eq (h : SmxCallAt s₀ cap st s q out ty) :
    hostHalted s = hostHalted s₀ := by
  rw [hostHalted, h.faults_eq, h.views_eq, hostHalted]

theorem SmxCallAt.countR_eq (h : SmxCallAt s₀ cap st s q out ty) : countR s = countR s₀ := by
  rw [countR, h.cfg_eq, h.views_eq, h.consumed_eq, countR]

theorem SmxCallAt.rx_cap_lt (h : SmxCallAt s₀ cap st s q out ty) : s.rx.cap < 2 ^ s.cfg.lw := by
  rw [h.cap_eq, h.cfg_eq]
  exact h.cap_lt

/-- The Type the engine holds, as the result shows it (R202). -/
theorem SmxCallAt.heldType_eq (h : SmxCallAt s₀ cap st s q out ty) :
    (if s.rx.typeValid = true then some s.rx.typeReg else none) = ty := by
  rw [h.valid_eq]
  cases ty with
  | none => rfl
  | some t => exact congrArg some (h.type_eq t rfl)

/-- What `R_DRAIN` or `R_ESC` finds at the head, and the call after the pop (R65). -/
theorem SmxCallAt.popByte (h : SmxCallAt s₀ cap st s (b :: q) out ty) :
    emptyR s = false ∧ headByte s = b ∧ SmxCallAt s₀ cap st (popByte s) q out ty := by
  obtain ⟨he, hhead, hrest⟩ := h.queue.of_visible_cons h.visible
  exact ⟨he, hhead, { h with queue := h.queue.popByte he, visible := hrest }⟩

theorem SmxCallAt.setState (h : SmxCallAt s₀ cap st s q out ty) (st' : RxState) :
    SmxCallAt s₀ cap st' { s with rx := { s.rx with state := st' } } q out ty :=
  { h with
    queue := QueueInv.of_queueOf_eq (s := s) rfl h.queue
    state_eq := rfl }

/-- A delivered byte becomes the Type where none is held; else it is stored where the loop stores
it. The engine drains on (R167, R168, R200). -/
theorem SmxCallAt.deliveredTo (h : SmxCallAt s₀ cap st s q out ty) (d : Byte) :
    SmxCallAt s₀ cap .drain (deliveredTo d s) q (outAfter cap d out ty) (typeAfter d ty) := by
  cases ty with
  | none =>
    rw [Machine.deliveredTo, if_pos ⟨h.mode_eq, h.first_eq⟩]
    exact { h with
      queue := QueueInv.of_queueOf_eq (s := s) rfl h.queue
      state_eq := rfl
      first_eq := rfl
      valid_eq := rfl
      type_eq := fun _ ht => Option.some.inj ht }
  | some t =>
    have hstored : ¬(s.rx.mode = .slipmux ∧ s.rx.first = true) := by
      rintro ⟨_, hfirst⟩
      exact nomatch h.first_eq.symm.trans hfirst
    rw [Machine.deliveredTo, if_neg hstored, outAfter, if_neg (Option.some_ne_none t), storeTo,
      h.rcv_eq, h.cap_eq]
    split
    · exact { h with
        queue := QueueInv.of_queueOf_eq (s := s) rfl h.queue
        state_eq := rfl
        rcv_eq := (List.length_append (bs := [d])).symm
        dst_eq := by rw [← zip_range_concat, ← h.dst_eq] }
    · exact h.setState .drain

/-- A terminator before any byte stored is noise: the next byte is a Type again (R199). -/
theorem SmxCallAt.noise (h : SmxCallAt s₀ cap st s q out ty) :
    SmxCallAt s₀ cap st (noise s) q out none := by
  rw [noise_of_slipmux h.mode_eq]
  exact { h with
    queue := QueueInv.of_queueOf_eq (s := s) rfl h.queue
    first_eq := rfl
    valid_eq := rfl
    type_eq := nofun }

/-- The length a completion reports is the loop's (R201). -/
theorem SmxCallAt.reportedLength_eq (h : SmxCallAt s₀ cap st s q out ty) :
    (if s.rx.typeValid = true ∧ s.rx.typeReg = s.cfg.chkType ∧ 2 ≤ s.rx.rcv then s.rx.rcv - 2
      else s.rx.rcv) = strippedLength s₀.cfg ty out.length := by
  rw [strippedLength, h.rcv_eq, h.cfg_eq, h.valid_eq]
  cases ty with
  | none => rfl
  | some t => rw [h.type_eq t rfl]; simp

/-- A terminator after a byte stored completes the call (R201, R202). -/
theorem SmxCallAt.complete (h : SmxCallAt s₀ cap st s q out ty) :
    SmxCallEnded s₀ (complete s)
      { out, len := strippedLength s₀.cfg ty out.length, type := ty, complete := true, rest := q,
        fatal := false } := by
  refine ⟨?_, ?_, nofun, fun _ => ?_, ?_⟩
  · rw [complete_ghost]; exact h.dst_eq
  · rw [visibleQueue_of_queueOf_eq (queueOf_complete _)]; exact h.visible
  · rw [complete_of_slipmux h.mode_eq]
    exact ⟨h.faults_eq, rfl, rfl, rfl, h.reportedLength_eq, rfl, h.heldType_eq,
      (Bool.and_false _).symm⟩
  · rw [complete_of_slipmux h.mode_eq, ← h.cfg_eq, ← h.consumed_eq]
    rfl

/-- A result that is not complete ends the call with the bytes stored (R202, R203). -/
theorem SmxCallAt.partialResult (h : SmxCallAt s₀ cap st s [] out ty) :
    SmxCallEnded s₀ (partialResult s)
      { out, len := out.length, type := ty, complete := false, rest := [], fatal := false } := by
  rw [Machine.partialResult, h.mode_eq]
  refine ⟨h.dst_eq, h.visible, nofun, fun _ => ?_, h.consumed_eq⟩
  exact ⟨h.faults_eq, rfl, rfl, rfl, h.rcv_eq, rfl, h.heldType_eq,
    h.valid_eq.trans (Bool.and_true _).symm⟩

/-! ### The engine's step along the loop -/

/-- Each byte popped takes the loop a turn on, or ends the call (R162 to R167, R199 to R201). -/
theorem SmxCallGoesTo.rxStep_cons (h : SmxCallGoesTo s₀ cap s (b :: q) e) :
    SmxCallEnded s₀ (rxStep s) e ∨ SmxCallGoesTo s₀ cap (rxStep s) q e := by
  cases h with
  | drain out ty h hend =>
    obtain ⟨he, hhead, hpop⟩ := h.popByte
    rw [rxStep_of_drain h.state_eq, drainStep_of_not_empty he, hhead]
    by_cases ht : b = terminator
    · subst ht
      by_cases hout : 0 < out.length
      · rw [smxLoop_terminator_of_pos _ cap q ty hout] at hend
        rw [drainByte_terminator_of_pos (hpop.rcv_eq ▸ hout)]
        exact .inl (hend ▸ hpop.complete)
      · rw [smxLoop_terminator_of_not_pos _ cap q ty hout] at hend
        rw [drainByte_terminator_of_zero (hpop.rcv_eq.trans (Nat.eq_zero_of_not_pos hout))]
        exact .inr (.drain out none hpop.noise hend)
    by_cases hesc : b = escape
    · subst hesc
      rw [drainByte_escape]
      exact .inr (.esc out ty (hpop.setState .esc) hend)
    · rw [smxLoop_of_ne _ cap ht hesc] at hend
      rw [drainByte_eq_deliveredTo hpop.state_eq hpop.rx_cap_lt ht hesc]
      exact .inr (.drain _ _ (hpop.deliveredTo b) hend)
  | esc out ty h hend =>
    obtain ⟨he, hhead, hpop⟩ := h.popByte
    rw [smxLoop_escape_cons] at hend
    rw [rxStep_of_esc h.state_eq, escStep_of_not_empty he, hhead,
      escByte_eq_deliveredTo hpop.rx_cap_lt]
    exact .inr (.drain _ _ (hpop.deliveredTo (unesc b)) hend)

/-- On an empty queue `R_DRAIN` takes the fatal exit, with the lock kept, and `R_ESC` ends the call
without testing the count; neither completes it (R162, R166, R240). -/
theorem SmxCallGoesTo.rxStep_nil (h : SmxCallGoesTo s₀ cap s [] e) (hrun : hostHalted s₀ = false)
    (hcount : countR s₀ ≠ 0) : SmxCallEnded s₀ (rxStep s) e ∧ e.complete = false := by
  cases h with
  | drain out ty h hend =>
    rw [smxLoop_nil] at hend
    subst hend
    have hfault : s.faults.hfault = .none :=
      ((hostHalted_eq_false_iff s).1 (h.hostHalted_eq.trans hrun)).1
    rw [rxStep_of_drain h.state_eq, drainStep_of_count_ne_zero
      (h.queue.emptyR_of_visible_nil h.visible) (h.countR_eq ▸ hcount) hfault]
    exact ⟨⟨h.dst_eq, h.visible, fun _ => ⟨rfl, h.done_eq, h.lock_eq⟩, nofun, h.consumed_eq⟩, rfl⟩
  | esc out ty h hend =>
    rw [smxLoop_escape_nil] at hend
    subst hend
    rw [rxStep_of_esc h.state_eq, escStep_of_empty (h.queue.emptyR_of_visible_nil h.visible)]
    exact ⟨h.partialResult, rfl⟩

theorem SmxCallGoesTo.hostHalted_eq (h : SmxCallGoesTo s₀ cap s q e) :
    hostHalted s = hostHalted s₀ := by
  cases h with
  | drain _ _ h _ => exact h.hostHalted_eq
  | esc _ _ h _ => exact h.hostHalted_eq

/-! ### The call -/

/-- A call that has ended does not go on. -/
theorem SmxCallEnded.rxRun (h : SmxCallEnded s₀ u e) (n : Nat) : SmxCallEnded s₀ (rxRun n u) e := by
  have hstopped : hostHalted u = true ∨ u.rx.state = .idle := by
    cases he : e.fatal with
    | false => exact .inr (h.result he).idle
    | true =>
      obtain ⟨hfault, _⟩ := h.fatal he
      exact .inl ((hostHalted_eq_true_iff u).2 (.inl (by rw [hfault]; exact HostFault.noConfusion)))
  rw [rxRun_of_stopped hstopped]
  exact h

/-- The engine alone runs to the loop's end: one step for each visible byte it pops, and one more
where the call does not end with a terminator. By induction on the visible queue. -/
theorem SmxCallGoesTo.ended_of_rxRun (hrun : hostHalted s₀ = false) (hcount : countR s₀ ≠ 0)
    (h : SmxCallGoesTo s₀ cap s q e) (hn : q.length + (!e.complete).toNat ≤ n) :
    SmxCallEnded s₀ (rxRun n s) e := by
  induction q generalizing s n with
  | nil =>
    obtain ⟨hend, hpartial⟩ := h.rxStep_nil hrun hcount
    rw [hpartial] at hn
    obtain ⟨m, rfl⟩ := Nat.exists_eq_succ_of_ne_zero (Nat.ne_of_gt (show 0 < n from hn))
    rw [rxRun_succ (h.hostHalted_eq.trans hrun)]
    exact hend.rxRun m
  | cons b q ih =>
    rw [List.length_cons] at hn
    obtain ⟨m, rfl⟩ : ∃ m, n = m + 1 := ⟨n - 1, by omega⟩
    rw [rxRun_succ (h.hostHalted_eq.trans hrun)]
    rcases h.rxStep_cons with hend | hgoes
    · exact hend.rxRun m
    · exact ih hgoes (by omega)

end

section
variable {s : State} {q cap n : Nat} {st : DecodeState}

/-- The grant with a completed packet visible begins the call (R196). -/
theorem DecodeMayBeGranted.smxCallAt_startSmxDec (h : DecodeMayBeGranted s q) (hs : QueueInv s)
    (hcap : cap < 2 ^ s.cfg.lw) (hcount : countR s ≠ 0) :
    SmxCallAt s cap .drain (startSmxDec q cap st s) (visibleQueue s) [] (typeOption st) := by
  rw [startSmxDec, grantRx_of_count_ne_zero h.port_postedRx hcap hcount]
  obtain ⟨valid, ty, pending⟩ := st
  exact
    { queue := QueueInv.of_queueOf_eq (s := s) rfl hs
      visible := rfl
      cfg_eq := rfl
      views_eq := rfl
      faults_eq := rfl
      consumed_eq := rfl
      lock_eq := rfl
      state_eq := rfl
      mode_eq := rfl
      done_eq := rfl
      cap_eq := rfl
      cap_lt := hcap
      rcv_eq := rfl
      dst_eq := rfl
      first_eq := by cases valid <;> rfl
      valid_eq := by cases valid <;> rfl
      type_eq := by
        cases valid with
        | false => nofun
        | true => exact fun _ ht => Option.some.inj ht }

/-- A whole quiescent call with a completed packet visible, for any number of steps that suffices
(R209). -/
theorem DecodeMayBeGranted.smxCallEnded_rxRun (h : DecodeMayBeGranted s q) (hs : QueueInv s)
    (hcap : cap < 2 ^ s.cfg.lw) (hcount : countR s ≠ 0)
    (hn : (visibleQueue s).length +
      (!(smxDec s.cfg (visibleQueue s) (countR s) cap (typeOption st)).complete).toNat ≤ n) :
    SmxCallEnded s (rxRun n (startSmxDec q cap st s))
      (smxDec s.cfg (visibleQueue s) (countR s) cap (typeOption st)) := by
  rw [smxDec, if_neg hcount] at hn ⊢
  exact (SmxCallGoesTo.drain _ _ (h.smxCallAt_startSmxDec hs hcap hcount) rfl).ended_of_rxRun
    h.running hcount hn

end

/-- Settles O41: with no completed packet visible the grant is the whole call; else it begins the
call, and the engine runs to the end of the loop. -/
theorem smxDecodeCallIsTheFunction : Obligations.SmxDecodeCallIsTheFunction := by
  rintro s q cap st e hs hslots hq hcap hrun hreq hst hlock rfl
  have hmay : DecodeMayBeGranted s q := ⟨hslots, hq, hrun, hreq, hst, hlock⟩
  refine ⟨_, _, hmay.execAll_smxDec_lockGrant, rfl, ?_⟩
  by_cases hcount : countR s = 0
  · have hend := grantRx_of_count_zero (hmay.port_postedRx (st := st)) hcap hcount
    rw [startSmxDec, rxRun_of_stopped (.inr (by rw [hend])), hend, smxDec, if_pos hcount]
    exact ⟨rfl, rfl, nofun,
      fun _ => ⟨rfl, rfl, rfl, rfl, rfl, rfl, rfl, fun _ => ⟨rfl, rfl⟩, (absurd hcount ·)⟩, rfl⟩
  · have hend := hmay.smxCallEnded_rxRun (st := st) hs hcap hcount
      (Nat.add_le_add_left (Bool.toNat_le _) _)
    refine ⟨hend.dst_eq, hend.visible, hend.fatal, fun hfatal => ?_, hend.consumed_eq⟩
    have hres := hend.result hfatal
    exact ⟨hres.faults_eq, hres.idle, hres.done, hres.unlocked, hres.len_eq, hres.complete_eq,
      hres.type_eq, (absurd · hcount), fun _ => hres.pending_eq⟩

end Sys2Proof.Machine
end

section
/-! What a SLIPMUX frame comes back as (spec/45_slipmux_decode.md R206, R209, R210). -/

namespace Sys2Proof.Machine

/-- What a SLIPMUX frame carries escaped behind its Type: the payload, and the checksum of a
checksum Type, low byte first (R93, R96). -/
def smxBody (c : Params) (t : Byte) (p : List Byte) : List Byte :=
  p ++ (if t = c.chkType then
    [fcsLow (crcFold c.crcInit (t :: p)), fcsHigh (crcFold c.crcInit (t :: p))] else [])

theorem smxFrame_eq_cons (c : Params) (t : Byte) (p : List Byte) :
    smxFrame c t p = terminator :: t :: (escAll (smxBody c t p) ++ [terminator]) := by
  have hcheck : escAll (smxBody c t p) =
      escAll p ++ (if t = c.chkType then checksumField c t p else []) := by
    rw [smxBody, escAll, List.flatMap_append]
    split
    · simp [escAll, checksumField]
    · rfl
  rw [hcheck]
  rfl

/-- With a Type held the loop reads `esc(b)` as the one byte `b` to store. -/
theorem smxLoop_esc_append (c : Params) (cap : Nat) (b t : Byte) (w out : List Byte) :
    smxLoop c cap (esc b ++ w) out (some t) = smxLoop c cap w (storeTo cap b out) (some t) := by
  by_cases ht : b = terminator
  · rw [ht, esc_terminator]
    exact smxLoop_escape_cons c cap escapedTerminator w out (some t)
  · by_cases he : b = escape
    · rw [he, esc_escape]
      exact smxLoop_escape_cons c cap escapedEscape w out (some t)
    · rw [esc_of_ne ht he]
      exact smxLoop_of_ne c cap ht he w out (some t)

/-- With a Type held the loop stores an escaped body's bytes up to the capacity, by induction on the
body. -/
theorem smxLoop_escAll_append (c : Params) (cap : Nat) (t : Byte) (x w ys : List Byte) :
    smxLoop c cap (escAll x ++ w) (ys.take cap) (some t) =
      smxLoop c cap w ((ys ++ x).take cap) (some t) := by
  induction x generalizing ys with
  | nil => rw [escAll_nil, List.nil_append, List.append_nil]
  | cons b x ih =>
    rw [escAll_cons, List.append_assoc, smxLoop_esc_append, storeTo_take, ih, List.append_assoc,
      List.singleton_append]

/-- The leading terminator is noise, and the raw byte behind it becomes the Type (R199, R200). -/
theorem smxLoop_type {c : Params} {t : Byte} (ht : t ≠ terminator) (he : t ≠ escape) (cap : Nat)
    (w : List Byte) :
    smxLoop c cap (terminator :: t :: w) [] none = smxLoop c cap w [] (some t) := by
  rw [smxLoop_terminator_of_not_pos (out := []) c cap _ none (Nat.lt_irrefl 0),
    smxLoop_of_ne c cap ht he]
  rfl

theorem strippedLength_some (c : Params) (t : Byte) (n : Nat) :
    strippedLength c (some t) n = if t = c.chkType ∧ 2 ≤ n then n - 2 else n := by
  simp only [strippedLength, Option.some_inj]

/-- Settles O43: the frame opens with its Type, the loop stores the body up to the capacity, and the
closing terminator completes. -/
theorem smxDecodeInvertsTheFrame : Obligations.SmxDecodeInvertsTheFrame := by
  intro c t p body rest count cap ht he hcap hcount hbody hne
  have hlen : (body.take cap).length = min cap body.length := List.length_take
  have hpos : 0 < (body.take cap).length := by
    have := List.length_pos_iff.2 hne
    omega
  have hloop := smxLoop_escAll_append c cap t body (terminator :: rest) []
  rw [List.take_nil, List.nil_append, smxLoop_terminator_of_pos c cap rest (some t) hpos, hlen]
    at hloop
  rw [smxDec, if_neg hcount, smxFrame_eq_cons, smxBody, ← hbody, List.cons_append, List.cons_append,
    List.append_assoc, smxLoop_type ht he, List.singleton_append, hloop,
    strippedLength_some]

end Sys2Proof.Machine
end

section
/-! The SLIPMUX round trip on the machine (spec/45_slipmux_decode.md R210, spec/30_encoding.md
R103): encode, feed the frame back, synchronise, decode with no Type. -/

namespace Sys2Proof.Machine

/- As in the tests: side by side these proofs take more threads than the check has memory for. -/
set_option Elab.async false

/-! ### The requester slots across runs and programs -/

theorem slotsOf_txRun (n : Nat) (s : State) : slotsOf (txRun n s) = slotsOf s := by
  induction n generalizing s with
  | zero => rfl
  | succ n ih =>
    rw [txRun, ih]
    split
    · exact slotsOf_txStep s
    · rfl

theorem AnyStep.slotInv {edge : Option State} {mayReset : Prop} {s t : State}
    (h : AnyStep edge mayReset s t) (hs : SlotInv s) : SlotInv t := by
  cases h with
  | atomic h => exact h.slotInv hs
  | push b _ _ => exact { hs with }
  | reset _ _ => exact slotInv_resetFor hs.cfg_wf hs.txCmd_length hs.rxCmd_length

theorem SlotInv.execAll {s t : State} {is : List Instr} (hs : SlotInv s)
    (h : execAll is s = .next t) : SlotInv t := by
  have hchain := execAll_anyChain (mayReset := True) is s t (fun _ _ => trivial) h
  clear h
  induction hchain with
  | refl => exact hs
  | tail _ hlink ih => exact hlink.slotInv ih

/-! ### What a decode call leaves of the encode side (R248) -/

@[simp] theorem result_txLock (n : Nat) (c e : Bool) (s : State) :
    (result n c e s).locks.txLock = s.locks.txLock := by
  rcases result_cases n c e s with ⟨_, h⟩ | ⟨_, h⟩ <;> rw [h]

/-- A step of the decode engine frees its own lock at most. -/
theorem rxStep_txLock (s : State) : (rxStep s).locks.txLock = s.locks.txLock := by
  unfold rxStep
  cases s.rx.state with
  | idle => rfl
  | drain =>
    rcases drainStep_cases s with ⟨_, _, h⟩ | ⟨_, _, h⟩ | ⟨_, _, _, h⟩ | ⟨_, _, _, h⟩ |
      ⟨_, _, h⟩ | ⟨_, _, _, h⟩ <;> simp only [h]
    · exact result_txLock _ _ _ _
    · rw [raiseFatal_locks]
    · exact result_txLock _ _ _ _
    · rw [noise_locks]; rfl
    · rfl
    · rw [deliver_locks]; rfl
  | esc =>
    rcases escStep_cases s with ⟨_, h⟩ | ⟨_, h⟩ <;> simp only [h]
    · exact result_txLock _ _ _ _
    · rw [escByte_locks]; rfl

theorem startRx_txLock (m : Mode) (q cap : Nat) (st : DecodeState) (s : State) :
    (startRx m q cap st s).locks.txLock = s.locks.txLock := by
  unfold startRx
  dsimp only
  split
  · exact result_txLock _ _ _ _
  · rfl

/-- What a decode call neither starts nor ends nor reads from the other domain anew: the
configuration, the views, the encode engine and its lock. -/
structure DecodeKept (s t : State) : Prop where
  cfg_eq : t.cfg = s.cfg
  views_eq : t.views = s.views
  tx_eq : t.tx = s.tx
  txLock_eq : t.locks.txLock = s.locks.txLock

theorem DecodeKept.rxStep {s t : State} (h : DecodeKept s t) : DecodeKept s (rxStep t) where
  cfg_eq := (rxStep_cfg t).trans h.cfg_eq
  views_eq := (rxStep_views t).trans h.views_eq
  tx_eq := (rxStep_tx t).trans h.tx_eq
  txLock_eq := (rxStep_txLock t).trans h.txLock_eq

theorem decodeKept_startSmxDec (q cap : Nat) (st : DecodeState) (s : State) :
    DecodeKept s (startSmxDec q cap st s) :=
  ⟨(startRx_cfg _ _ _ _ _).trans rfl, (startRx_views _ _ _ _ _).trans rfl,
    (startRx_tx _ _ _ _ _).trans rfl, (startRx_txLock _ _ _ _ _).trans rfl⟩

theorem queueOf_startSmxDec (q cap : Nat) (st : DecodeState) (s : State) :
    queueOf (startSmxDec q cap st s) = queueOf s :=
  (queueOf_startRx _ _ _ _ _).trans rfl

/-- A SLIPMUX decode, posted, granted and run, keeps the encode side. -/
theorem decodeKept_rxRun_startSmxDec (n q cap : Nat) (st : DecodeState) (s : State) :
    DecodeKept s (rxRun n (startSmxDec q cap st s)) :=
  rxRun_keeps (DecodeKept s) (fun _ _ h => h.rxStep) (decodeKept_startSmxDec q cap st s) n

theorem queueInv_rxRun_startSmxDec {s : State} (hs : QueueInv s) (n q cap : Nat)
    (st : DecodeState) :
    QueueInv (rxRun n (startSmxDec q cap st s)) :=
  rxRun_queueInv (hs.of_queueOf_eq (queueOf_startSmxDec q cap st s)) n

/-! ### The count of a frame (R122) -/

/-- After a terminator, a frame with a Type counts its closing terminator and nothing else. -/
theorem countedIn_smxFrame {c : Params} {t : Byte} (ht : t ≠ terminator) (p : List Byte) :
    countedIn terminator (smxFrame c t p) = 1 := by
  have hmem : terminator ∉ t :: escAll (smxBody c t p) :=
    List.not_mem_cons_of_ne_of_not_mem ht.symm (terminator_notMem_escAll _)
  have hlast : (t :: escAll (smxBody c t p)).getLastD terminator ≠ terminator := by
    intro h
    rw [List.getLastD_eq_getLast?, List.getLast?_eq_some_getLast (List.cons_ne_nil _ _),
      Option.getD_some] at h
    exact hmem (h ▸ List.getLast_mem _)
  rw [smxFrame_eq_cons, ← List.cons_append, countedIn, countedIn_concat, countedIn_of_notMem hmem,
    bne_iff_ne.2 hlast]
  rfl

/-! ### Feeding a frame and synchronising (R103) -/

/-- `t` is `s` with the bytes `bs` fed and seen by the host domain: they are all that is visible,
they close one packet, and the host domain, its faults and its inputs are as in `s`. -/
structure FedAndSeen (s t : State) (bs : List Byte) : Prop where
  queue : QueueInv t
  visible : visibleQueue t = bs
  closedR_eq : t.views.closedR = (s.rx.consumed + 1) % 2 ^ s.cfg.cw
  cfg_eq : t.cfg = s.cfg
  rx_eq : t.rx = s.rx
  tx_eq : t.tx = s.tx
  locks_eq : t.locks = s.locks
  faults_eq : t.faults = s.faults
  wfaultH_eq : t.views.wfaultH = s.views.wfaultH
  hfaultW_eq : t.views.hfaultW = s.views.hfaultW

/-- A stream that closes one packet, fed into a quiet queue that has room for it, and synchronised
(R62, R122). -/
theorem QuietQueue.feed_and_sync {s : State} {bs : List Byte} (hs : QuietQueue s)
    (hrun : writeHalted s = false) (hone : countedIn terminator bs = 1)
    (hfit : bs.length ≤ s.cfg.depth) :
    ∃ t u, execAll (feedProgram bs) s = .next t ∧ execAll (syncProgram t) t = .next u ∧
      FedAndSeen s u bs := by
  have hroom : s.ghost.pushes + bs.length ≤ s.ghost.ir + s.cfg.depth := by
    rw [hs.empty, hs.known]
    exact Nat.add_le_add_left hfit _
  obtain ⟨t, hfeed, hclosed, _, hpushed, hfaults⟩ := countingLaw s bs hs.inv hrun hroom
  have ht : QueueInv t := hs.inv.execAll hfeed
  have hsync := ht.execAll_syncProgram
  have hkept := hostSideKept_of_feed hfeed
  have hpops : t.ghost.pops = s.ghost.pushTrace.length := by
    rw [hkept.pops_eq, ← hs.empty, hs.inv.pushTrace_length]
  have htx : t.tx = s.tx :=
    execAll_feedProgram_keeps (·.tx = s.tx) (fun b u h => (ingestByte_tx b u).trans h) rfl hfeed
  exact ⟨t, synced t, hfeed, hsync,
    { queue := ht.execAll hsync
      visible := by rw [ht.visibleQueue_synced, hpushed, hpops, List.drop_left]
      closedR_eq := by rw [ht.synced_closedR, hclosed, hs.behind, hone, hs.count]
      cfg_eq := hkept.cfg_eq
      rx_eq := hkept.rx_eq
      tx_eq := htx
      locks_eq := hkept.locks_eq
      faults_eq := hfaults
      wfaultH_eq := (congrArg Views.wfaultH hkept.views_eq :)
      hfaultW_eq := (congrArg Views.hfaultW hkept.views_eq :) }⟩

/-- What decides whether a SLIPMUX decode may be posted and granted (R217, R241). -/
theorem DecodeMayBeGranted.of_eq {s t : State} {q : Nat} (h : DecodeMayBeGranted s q)
    (hslots : SlotInv t) (hcfg : t.cfg = s.cfg) (hrx : t.rx = s.rx)
    (hlock : t.locks.rxLock = s.locks.rxLock) (hreq : requested .rx q t = requested .rx q s)
    (hfaults : t.faults = s.faults) (hview : t.views.wfaultH = s.views.wfaultH) :
    DecodeMayBeGranted t q where
  slots := hslots
  slot_lt := hcfg ▸ h.slot_lt
  running := by
    rw [hostHalted, hfaults, hview]
    exact h.running
  not_requested := hreq.trans h.not_requested
  idle := hrx ▸ h.idle
  unlocked := hlock.trans h.unlocked

theorem FedAndSeen.decodeMayBeGranted {s t : State} {bs : List Byte} {q : Nat}
    (h : FedAndSeen s t bs) (ht : SlotInv t) (hmay : DecodeMayBeGranted s q) :
    DecodeMayBeGranted t q :=
  hmay.of_eq ht h.cfg_eq h.rx_eq (congrArg LockRegs.rxLock h.locks_eq)
    (by rw [requested, requests, h.locks_eq]; rfl) h.faults_eq h.wfaultH_eq

/-! ### Decoding the frame (R209, R210) -/

/-- A SLIPMUX decode that began with the encode side as in `s` gave the payload `x` and the Type
`ty` back complete, and left no fault, no lock held, and the queue empty with count 0 (R210). -/
structure SmxCameBack (s u : State) (ty : Byte) (x : List Byte) : Prop where
  len_eq : u.rx.resLen = x.length
  complete : u.rx.resComplete = true
  typeValid : u.rx.resTypeValid = true
  type_eq : u.rx.resType = ty
  not_pending : u.rx.resPending = false
  done : u.rx.done = true
  dst_eq : u.ghost.dstTrace.take x.length = (List.range x.length).zip x
  empty : emptyR u = true
  count : countR u = 0
  fault_free : faultFree u = faultFree s
  unlocked : u.locks.rxLock = false
  idle : u.rx.state = .idle
  txLock_eq : u.locks.txLock = s.locks.txLock
  tx_eq : u.tx = s.tx

theorem length_smxBody (c : Params) (t : Byte) (p : List Byte) :
    (smxBody c t p).length = p.length + if t = c.chkType then 2 else 0 := by
  rw [smxBody, List.length_append]
  split <;> rfl

/-- The first bytes stored stand at the first offsets (R72). -/
theorem take_length_zip_range_append (x y : List Byte) :
    ((List.range (x ++ y).length).zip (x ++ y)).take x.length = (List.range x.length).zip x := by
  rw [List.zip_eq_zipWith, List.take_zipWith, List.take_range, List.take_left, List.length_append,
    Nat.min_eq_left (Nat.le_add_right _ _), List.zip_eq_zipWith]

/-- The end of a decode of a whole frame whose body fits the capacity: the checksum of a checksum
Type is stored and left out of the length (R201, R206). -/
def frameEnd (c : Params) (ty : Byte) (x : List Byte) : CallEnd where
  out := smxBody c ty x
  len := x.length
  type := some ty
  complete := true
  rest := []
  fatal := false

theorem smxDec_smxFrame {c : Params} {ty : Byte} {x : List Byte} {count cap : Nat}
    (ht : ty ≠ terminator) (he : ty ≠ escape) (hx : x ≠ []) (hcount : count ≠ 0)
    (hfits : (smxBody c ty x).length ≤ cap) :
    smxDec c (smxFrame c ty x) count cap none = frameEnd c ty x := by
  have hne : smxBody c ty x ≠ [] := List.append_ne_nil_of_left_ne_nil hx _
  have hcap : 1 ≤ cap := (List.length_pos_iff.2 hne).trans_le hfits
  have hdec := smxDecodeInvertsTheFrame c ty x
    (smxBody c ty x) [] count cap ht he hcap hcount rfl hne
  have hlen : (if ty = c.chkType ∧ 2 ≤ (smxBody c ty x).length then (smxBody c ty x).length - 2
      else (smxBody c ty x).length) = x.length := by
    rw [length_smxBody]
    by_cases hty : ty = c.chkType <;> simp [hty]
  rw [List.append_nil, List.take_of_length_le hfits, Nat.min_eq_right hfits, hlen] at hdec
  exact hdec

/-- A frame fed into a quiet queue and seen by the host domain is decoded by as many steps as it has
bytes (R209, R210). -/
theorem FedAndSeen.smxCameBack {s t : State} {q cap : Nat} {ty : Byte} {x : List Byte}
    {st : DecodeState} (h : FedAndSeen s t (smxFrame s.cfg ty x)) (hmay : DecodeMayBeGranted t q)
    (hmod : s.rx.consumed < 2 ^ s.cfg.cw) (hcap : cap < 2 ^ s.cfg.lw) (ht : ty ≠ terminator)
    (he : ty ≠ escape) (hx : x ≠ []) (hfits : (smxBody s.cfg ty x).length ≤ cap)
    (hst : st.typeValid = false) :
    SmxCameBack s (rxRun (smxFrame s.cfg ty x).length (startSmxDec q cap st t)) ty x := by
  rw [← h.cfg_eq, ← h.rx_eq] at hmod
  have hcount : countR t ≠ 0 := by
    rw [countR_of_one_closed h.queue hmod (by rw [h.closedR_eq, h.cfg_eq, h.rx_eq])]
    exact Nat.one_ne_zero
  have hdec : smxDec t.cfg (visibleQueue t) (countR t) cap (typeOption st) =
      frameEnd s.cfg ty x := by
    rw [h.visible, h.cfg_eq, typeOption, hst]
    exact smxDec_smxFrame ht he hx hcount hfits
  have hend := hmay.smxCallEnded_rxRun (st := st) (n := (smxFrame s.cfg ty x).length) h.queue
    (h.cfg_eq ▸ hcap) hcount (by rw [hdec, h.visible]; exact le_rfl)
  have hkept := decodeKept_rxRun_startSmxDec (smxFrame s.cfg ty x).length q cap st t
  have hqueue := queueInv_rxRun_startSmxDec h.queue (smxFrame s.cfg ty x).length q cap st
  generalize rxRun (smxFrame s.cfg ty x).length (startSmxDec q cap st t) = u at *
  rw [hdec] at hend
  have hres := hend.result rfl
  obtain ⟨hvalid, htype⟩ := Option.ite_none_right_eq_some.1 hres.type_eq
  have hclosed : u.views.closedR = (t.rx.consumed + 1) % 2 ^ u.cfg.cw := by
    rw [hkept.views_eq, hkept.cfg_eq, h.closedR_eq, h.rx_eq, h.cfg_eq]
  exact
    { len_eq := hres.len_eq
      complete := hres.complete_eq
      typeValid := hvalid
      type_eq := Option.some.inj htype
      not_pending := hres.pending_eq
      done := hres.done
      dst_eq := (congrArg (List.take x.length) hend.dst_eq).trans (take_length_zip_range_append x _)
      empty := hqueue.emptyR_of_visible_nil hend.visible
      count := countR_of_all_consumed hclosed (by rw [hkept.cfg_eq]; exact hend.consumed_eq)
      fault_free := faultFree_of_eq (hres.faults_eq.trans h.faults_eq)
        ((congrArg Views.wfaultH hkept.views_eq).trans h.wfaultH_eq)
        ((congrArg Views.hfaultW hkept.views_eq).trans h.hfaultW_eq)
      unlocked := hres.unlocked
      idle := hres.idle
      txLock_eq := hkept.txLock_eq.trans (congrArg LockRegs.txLock h.locks_eq)
      tx_eq := hkept.tx_eq.trans h.tx_eq }

/-! ### The round trip (R210) -/

/-- `t` is `s` after a whole encode call that emitted `bs`: the encode side is at rest, and the
queue, the fault bits and what a decode on slot `q` waits for are as in `s` (R188, R220). -/
structure EncodeEnded (s t : State) (q : Nat) (bs : List Byte) : Prop where
  slots : SlotInv t
  queue_eq : queueOf t = queueOf s
  rx_eq : t.rx = s.rx
  rxLock_eq : t.locks.rxLock = s.locks.rxLock
  requested_eq : requested .rx q t = requested .rx q s
  faults_eq : t.faults = s.faults
  wfaultH_eq : t.views.wfaultH = s.views.wfaultH
  hfaultW_eq : t.views.hfaultW = s.views.hfaultW
  trace_eq : t.ghost.sinkTrace = s.ghost.sinkTrace ++ bs
  idle : t.tx.state = .idle
  unlocked : t.locks.txLock = false

/-- A SLIPMUX encode call, posted, granted and run to its end (R180 to R188). -/
theorem encodeEnded_txRun {s : State} {q : Nat} (ty : Byte) (x : List Byte) (hs : SlotInv s)
    (hq : q < s.cfg.nreq) (hlen : x.length < 2 ^ s.cfg.lw) (hrun : hostHalted s = false)
    (hreq : requested .tx q s = false) (hst : s.tx.state = .idle) (hlock : s.locks.txLock = false)
    (hsink : s.env.sinkReady = true) :
    ∃ t0, execAll [.smxEnc q ty x.length x, .lockGrant .tx q] s = .next t0 ∧
      EncodeEnded s (txRun (smxFrame s.cfg ty x).length t0) q (smxFrame s.cfg ty x) := by
  have hready : txReady s = true := by
    rw [txReady, hsink, hrun]
    rfl
  have hstart := execAll_smxEnc_lockGrant ty x hs hq hrun hreq hst hlock
  have hslots := (hs.execAll hstart).of_slotsOf_eq (slotsOf_txRun (smxFrame s.cfg ty x).length _)
  obtain ⟨r, hcall, hidle, _⟩ := (smxCallBegun_grantTx ty hs hq hlen).txRun_smxFrame hready
  have hcfg : (grantTx q (posted q ty x s)).cfg = s.cfg := rfl
  rw [hcfg] at hcall
  refine ⟨_, hstart, ?_⟩
  rw [hcall] at hslots ⊢
  exact
    { slots := hslots
      queue_eq := rfl
      rx_eq := rfl
      rxLock_eq := rfl
      requested_eq := rfl
      faults_eq := rfl
      wfaultH_eq := rfl
      hfaultW_eq := rfl
      trace_eq := rfl
      idle := hidle
      unlocked := rfl }

section
variable {s t : State} {q : Nat} {bs : List Byte}

theorem EncodeEnded.cfg_eq (h : EncodeEnded s t q bs) : t.cfg = s.cfg :=
  congrArg QueuePart.cfg h.queue_eq

theorem EncodeEnded.faultFree_eq (h : EncodeEnded s t q bs) : faultFree t = faultFree s :=
  faultFree_of_eq h.faults_eq h.wfaultH_eq h.hfaultW_eq

theorem EncodeEnded.quietQueue (h : EncodeEnded s t q bs) (hs : QuietQueue s) : QuietQueue t where
  inv := hs.inv.of_queueOf_eq h.queue_eq
  empty := (congrArg QueuePart.pushes h.queue_eq).trans
    (hs.empty.trans (congrArg QueuePart.pops h.queue_eq).symm)
  known := (congrArg QueuePart.ir h.queue_eq).trans
    (hs.known.trans (congrArg QueuePart.pops h.queue_eq).symm)
  count := (congrArg (·.w.closed) h.queue_eq).trans
    (hs.count.trans (congrArg RxRegs.consumed h.rx_eq).symm)
  behind := (congrArg (·.w.lastByte) h.queue_eq).trans hs.behind

theorem EncodeEnded.decodeMayBeGranted (h : EncodeEnded s t q bs) (hmay : DecodeMayBeGranted s q) :
    DecodeMayBeGranted t q :=
  hmay.of_eq h.slots h.cfg_eq h.rx_eq h.rxLock_eq h.requested_eq h.faults_eq h.wfaultH_eq

end

/-- `consumed` is a register of `CW` bits where it is the write side's count (R26). -/
theorem QuietQueue.consumed_lt {s : State} (hs : QuietQueue s) :
    s.rx.consumed < 2 ^ s.cfg.cw := by
  rw [← hs.count, hs.inv.closed_eq]
  exact Nat.mod_lt _ (Nat.two_pow_pos _)

/-- Settles O45: the encode call emits the frame, frees its lock and leaves the queue quiet; the
frame fed back is decoded as its Type and payload. -/
theorem smxRoundTrip : Obligations.SmxRoundTrip := by
  intro s q cap ty x st hs hslots hfree hq hcap hxpos ht he hxcap hfit hst hreqTx hidleTx
    hlockTx hreqRx hidleRx hlockRx hsink hempty hknown hcount hlast
  have hrun : hostHalted s = false := ((faultFree_iff s).1 hfree).1
  have hlen : x.length < 2 ^ s.cfg.lw := ((Nat.le_add_right _ _).trans hxcap).trans_lt hcap
  obtain ⟨t0, hstart, hencoded⟩ :=
    encodeEnded_txRun ty x hslots hq hlen hrun hreqTx hidleTx hlockTx hsink
  generalize ht1 : txRun (smxFrame s.cfg ty x).length t0 = t1 at hencoded
  have hquiet : QuietQueue t1 := hencoded.quietQueue ⟨hs, hempty, hknown, hcount, hlast⟩
  have hfree1 : faultFree t1 = true := hencoded.faultFree_eq.trans hfree
  have hmay1 : DecodeMayBeGranted t1 q :=
    hencoded.decodeMayBeGranted ⟨hslots, hq, hrun, hreqRx, hidleRx, hlockRx⟩
  have htrace := hencoded.trace_eq
  rw [← hencoded.cfg_eq] at hcap hxcap hfit ht1 htrace ⊢
  obtain ⟨t2, t3, hfeed, hsync, hseen⟩ :=
    hquiet.feed_and_sync ((faultFree_iff t1).1 hfree1).2 (countedIn_smxFrame ht x) hfit
  have hmay3 := hseen.decodeMayBeGranted ((hmay1.slots.execAll hfeed).execAll hsync) hmay1
  have hback := hseen.smxCameBack hmay3 hquiet.consumed_lt hcap ht he (List.length_pos_iff.1 hxpos)
    ((length_smxBody t1.cfg ty x).trans_le hxcap) hst
  exact ⟨t0, t1, t2, t3, _, _, hstart, ht1.symm, htrace, hfeed, hsync,
    hmay3.execAll_smxDec_lockGrant, rfl, hback.len_eq, hback.complete, hback.typeValid,
    hback.type_eq, hback.not_pending, hback.done, hback.dst_eq, hback.empty, hback.count,
    hback.fault_free.trans hfree1, hback.unlocked, hback.idle,
    hback.txLock_eq.trans hencoded.unlocked,
    (congrArg TxRegs.state hback.tx_eq).trans hencoded.idle⟩

end Sys2Proof.Machine
end

section
/-! The guard's operations one at a time (spec/46_concurrency_guard.md R217, R220, R222, R224, R225): a
post that raises a request, one that is refused or stands outside the protocol, the release that ends a
decode call, and the timeout without time. -/

namespace Sys2Proof.Machine

/- As in the tests: side by side these proofs take more threads than the check has memory for. -/
set_option Elab.async false

/-! ### Plain commands that may not start (R224, R225) -/

/-- Where a plain command may not start, the model's test fails too (R224). -/
theorem plainStarts_eq_false {d : Dir} {s : State} (h : ¬ plainMayStart d s) :
    plainStarts d s = false := Bool.eq_false_iff.2 (mt (plainStarts_iff d s).1 h)

/-- Settles O25: the command may not start, so the slot's post is marked and nothing else happens. -/
theorem plainCommandsAreRefused : Obligations.PlainCommandsAreRefused := by
  intro s q hq
  refine ⟨fun len p h => ?_, fun cap h => ?_⟩
  · exact (withSlot_of_lt _ hq).trans
      (congrArg _ (if_neg (Bool.eq_false_iff.1 (plainStarts_eq_false h))))
  · exact (withSlot_of_lt _ hq).trans
      (congrArg _ (if_neg (Bool.eq_false_iff.1 (plainStarts_eq_false h))))

/-! ### SLIPMUX posts (R217) -/

/-- A command as it stands on the ports of a requester (R101). -/
inductive Command where
  | encode (port : TxPort)
  | decode (port : RxPort)

/-- The direction whose ports the command stands on. -/
def Command.dir : Command → Dir
  | .encode _ => .tx
  | .decode _ => .rx

/-- The command posted on slot `q` in SLIPMUX mode (R180, R195). -/
def Command.mux (q : Nat) : Command → Instr
  | .encode port => .smxEnc q port.type port.len port.payload
  | .decode port => .smxDec q port.cap port.stIn

/-- The state after that post on a slot that may be posted on (R217). -/
def Command.muxPosted (q : Nat) (s : State) : Command → State
  | .encode port =>
    setTxPort q port.type port.len port.payload { s with locks := setRequest .tx q true s.locks }
  | .decode port =>
    setRxPort q port.cap port.stIn { s with locks := setRequest .rx q true s.locks }

section
variable {q : Nat} {s : State}

/-- A SLIPMUX post tests the halt first and the slot then (R217, R241; log 15, log 18). -/
theorem exec_mux (cmd : Command) (hq : q < s.cfg.nreq) :
    exec (cmd.mux q) s =
      if hostHalted s then .next s
      else if slotBusy cmd.dir q s then .refused (.slotBusy cmd.dir q)
      else .next (cmd.muxPosted q s) := by
  cases cmd <;> exact withSlot_of_lt _ hq

theorem exec_mux_of_free {cmd : Command} (hq : q < s.cfg.nreq) (hrun : hostHalted s = false)
    (hfree : slotBusy cmd.dir q s = false) :
    exec (cmd.mux q) s = .next (cmd.muxPosted q s) := by
  rw [exec_mux cmd hq, if_neg (Bool.eq_false_iff.1 hrun), if_neg (Bool.eq_false_iff.1 hfree)]

theorem exec_mux_of_halted (cmd : Command) (hq : q < s.cfg.nreq) (hhalt : hostHalted s = true) :
    exec (cmd.mux q) s = .next s := by
  rw [exec_mux cmd hq, if_pos hhalt]

theorem exec_mux_of_busy {cmd : Command} (hq : q < s.cfg.nreq) (hrun : hostHalted s = false)
    (hbusy : slotBusy cmd.dir q s = true) :
    exec (cmd.mux q) s = .refused (.slotBusy cmd.dir q) := by
  rw [exec_mux cmd hq, if_neg (Bool.eq_false_iff.1 hrun), if_pos hbusy]

theorem withSlot_of_le (k : Host.Outcome State Fault Refusal) (h : s.cfg.nreq ≤ q) :
    withSlot q s k = .fault (.noSuchRequester q) := if_neg (Nat.not_lt.2 h)

end

/-- Settles O46: the post goes through on a free slot while the host domain runs, and has no effect after
a fault. -/
theorem slipmuxPostsRaiseTheRequest : Obligations.SlipmuxPostsRaiseTheRequest := by
  intro s q hq
  exact ⟨fun t len p => ⟨exec_mux_of_free (cmd := .encode ⟨t, len, p⟩) hq,
      exec_mux_of_halted (.encode ⟨t, len, p⟩) hq⟩,
    fun cap st => ⟨exec_mux_of_free (cmd := .decode ⟨cap, st⟩) hq,
      exec_mux_of_halted (.decode ⟨cap, st⟩) hq⟩⟩

/-- Settles O47: a busy slot refuses the post by name, and every operation on a slot tests first that the
slot is there. -/
theorem postsOutsideTheProtocolStop : Obligations.PostsOutsideTheProtocolStop := by
  intro s q
  refine ⟨fun hq hrun hbusy t len p => ?_, fun hq hrun hbusy cap st => ?_, fun hq => ?_⟩
  · exact exec_mux_of_busy (cmd := .encode ⟨t, len, p⟩) hq hrun hbusy
  · exact exec_mux_of_busy (cmd := .decode ⟨cap, st⟩) hq hrun hbusy
  · exact ⟨fun _ _ => withSlot_of_le _ hq, fun _ _ _ => withSlot_of_le _ hq,
      fun _ => withSlot_of_le _ hq, fun _ _ => withSlot_of_le _ hq,
      fun _ => withSlot_of_le _ hq, fun _ => withSlot_of_le _ hq⟩

/-! ### The release of the receive lock (R202, R203, R220) -/

/-- A step that ends an `SMX_DEC` call is the release of its lock (R220, log 12). -/
theorem exec_lockRelease_rx_of_ends {s : State} (hrun : hostHalted s = false)
    (hmode : s.rx.mode = .slipmux) (hends : rxEnds s = true) :
    exec (.lockRelease .rx) s = .next (rxStep s) :=
  congrArg _ (if_pos (by simp [hrun, hmode, hends]))

theorem exec_lockRelease_rx_of_not_ends {s : State}
    (h : hostHalted s = true ∨ s.rx.mode = .slip ∨ rxEnds s = false) :
    exec (.lockRelease .rx) s = .next s := by
  refine congrArg _ (if_neg ?_)
  rcases h with h | h | h <;> simp [h]

/-- A decode call in `R_DRAIN` or `R_ESC` with nothing to read ends, in `R_DRAIN` where the count is zero
too (R203: X2, X3). -/
theorem rxEnds_of_empty {s : State} (he : emptyR s = true)
    (h : s.rx.state = .esc ∨ s.rx.state = .drain ∧ countR s = 0) : rxEnds s = true := by
  rcases h with hst | ⟨hst, hcount⟩
  · simp [rxEnds, hst, he]
  · simp [rxEnds, hst, he, hcount]

/-- A terminator behind stored bytes ends the call (R203: X1). -/
theorem rxEnds_of_terminator {s : State} (hst : s.rx.state = .drain) (hb : headIs terminator s)
    (hrcv : 0 < s.rx.rcv) : rxEnds s = true := by
  simp [rxEnds, hst, hb.1, headByte_of_headIs hb, hrcv]

/-- Settles O50: at each exit the engine's step ends the call, so LOCK_RELEASE is that step; elsewhere
its test fails. -/
theorem receiveReleaseEndsTheCall : Obligations.ReceiveReleaseEndsTheCall := by
  intro s
  refine ⟨fun hrun hmode => ⟨fun hst he => ?_, fun hst he hcount => ?_, fun hst hb hrcv => ?_⟩,
    exec_lockRelease_rx_of_not_ends⟩
  · rw [exec_lockRelease_rx_of_ends hrun hmode (rxEnds_of_empty he (.inl hst)), rxStep_of_esc hst,
      escStep_of_empty he]
  · rw [exec_lockRelease_rx_of_ends hrun hmode (rxEnds_of_empty he (.inr ⟨hst, hcount⟩)),
      rxStep_of_drain hst, drainStep_of_count_zero he hcount]
  · have hat : rxAt .drain s = true := by simp [rxAt, hst, hrun]
    have hrelease := exec_lockRelease_rx_of_ends hrun hmode (rxEnds_of_terminator hst hb hrcv)
    have hrow : exec .drainTerminator s = .next (rxStep s) := congrArg _ (popClass_of_headIs hat hb)
    obtain ⟨_, _, _, hcomplete⟩ := drainOfATerminator s .drainTerminator (.inr rfl) hat hb
    exact ⟨hrelease.trans hrow.symm, _, (hrelease.trans hrow.symm).trans (hcomplete hrcv hmode), rfl⟩

/-! ### The timeout without time (R222) -/

/-- The first fault of the host domain is recorded under its cause's code, beside nothing else (R236,
R237). -/
theorem raiseFatal_timeoutCause {s : State} (d : Dir) (hrun : hostHalted s = false) :
    raiseFatal (timeoutCause d) s = { s with faults := { s.faults with
      hfault := (timeoutCause d).hostFault } } := by
  have hnone := ((hostHalted_eq_false_iff s).1 hrun).1
  cases d <;> exact if_pos hnone

/-- Settles O51: the request is blocked and the host domain runs, so the direction's cause is raised. -/
theorem timeoutOfABlockedRequestIsFatal : Obligations.TimeoutOfABlockedRequestIsFatal := by
  intro s d q hq hrun hblocked
  have hguard : (blocked d q s && !hostHalted s) = true := by rw [hblocked, hrun]; rfl
  refine (withSlot_of_lt _ hq).trans (congrArg _ ?_)
  rw [if_pos hguard, raiseFatal_timeoutCause d hrun]
  cases d <;> rfl

end Sys2Proof.Machine
end

section
/-! The locks across a step of the machine (spec/46_concurrency_guard.md R217, R220, R224): each is held
while its engine runs a SLIPMUX call, a grant takes it and the call's last step frees it. -/

namespace Sys2Proof.Machine

/- As in the tests: side by side these proofs take more threads than the check has memory for. -/
set_option Elab.async false

/-- The lock bit says that its engine is `busy` with a SLIPMUX call. -/
def LockFits (lock : Bool) (busy : Prop) (m : Mode) : Prop := lock = true ↔ busy ∧ m = .slipmux

/-- The transmit lock fits the encode engine. -/
def TxLockFits (s : State) : Prop := LockFits s.locks.txLock (s.tx.state ≠ .idle) s.tx.mode

/-- The receive lock fits the decode engine. -/
def RxLockFits (s : State) : Prop := LockFits s.locks.rxLock (s.rx.state ≠ .idle) s.rx.mode

theorem lockInv_iff (s : State) : LockInv s ↔ TxLockFits s ∧ RxLockFits s :=
  ⟨fun h => ⟨h.tx, h.rx⟩, fun h => ⟨h.1, h.2⟩⟩

section
variable {lock : Bool} {busy : Prop} {m : Mode}

/-- A call that goes on keeps its lock as it is. -/
theorem LockFits.goesOn {busy' : Prop} {m' : Mode} (h : LockFits lock busy m) (hbusy : busy)
    (hon : busy' ∧ m' = m) : LockFits lock busy' m' := by
  obtain ⟨hbusy', rfl⟩ := hon
  exact h.trans (and_congr_left' ⟨fun _ => hbusy', fun _ => hbusy⟩)

/-- A free lock fits an idle engine. -/
theorem lockFits_of_free (hlock : lock = false) (hidle : ¬ busy) : LockFits lock busy m :=
  ⟨fun hl => absurd (hlock.symm.trans hl) Bool.false_ne_true, fun hcall => absurd hcall.1 hidle⟩

/-- A SLIP call holds no lock. -/
theorem lockFits_slip (hlock : lock = false) : LockFits lock busy .slip :=
  ⟨fun hl => absurd (hlock.symm.trans hl) Bool.false_ne_true, fun hcall => nomatch hcall.2⟩

end

/-! ### The encode engine (R152 to R155, R183 to R187, R220) -/

/-- The engine's registers are those of a call that goes on in mode `m`. -/
def TxRegs.Running (m : Mode) (r : TxRegs) : Prop := r.state ≠ .idle ∧ r.mode = m

theorem afterByte_ne_idle (r : TxRegs) (i : Nat) : afterByte r i ≠ .idle := by
  rcases afterByte_cases r i with ⟨_, h⟩ | ⟨_, _, h⟩ | ⟨_, _, h⟩ <;> rw [h] <;> decide

theorem foldFcs_mode (b : Byte) (r : TxRegs) : (foldFcs b r).mode = r.mode := by
  rcases foldFcs_cases b r with ⟨_, h⟩ | ⟨_, h⟩ <;> rw [h]

/-- Whether an escape sequence is begun or the byte is done, the call goes on where both ways do. -/
theorem running_stuffRegs {r : TxRegs} {second : TxState} {done : TxRegs → TxRegs} (p : Byte)
    (hsecond : second ≠ .idle) (hdone : (done r).Running r.mode) :
    (stuffRegs p second done r).Running r.mode := by
  rcases stuffRegs_cases p second done r with ⟨_, h⟩ | ⟨_, h⟩ | ⟨_, _, h⟩ <;> rw [h]
  · exact ⟨hsecond, rfl⟩
  · exact ⟨hsecond, rfl⟩
  · exact hdone

/-- Before the closing terminator every step of the engine goes on with the call (R152 to R154, R183 to
R187). -/
theorem txStep_running {s : State} (hbusy : s.tx.state ≠ .idle) (hopen : s.tx.state ≠ .trail) :
    (txStep s).tx.Running s.tx.mode := by
  unfold txStep
  cases hst : s.tx.state with
  | idle => exact absurd hst hbusy
  | lead =>
    refine ⟨?_, rfl⟩
    simp only [leadStep_eq, emitted]
    split <;> [decide; split <;> decide]
  | type => exact ⟨afterByte_ne_idle _ _, foldFcs_mode _ _⟩
  | pay =>
    rw [← foldFcs_mode (payRead s s.tx.idx) s.tx]
    exact running_stuffRegs (done := nextPayload s.cfg) _ TxState.noConfusion
      ⟨afterByte_ne_idle _ _, rfl⟩
  | pay2 => exact ⟨afterByte_ne_idle _ _, rfl⟩
  | clo => exact running_stuffRegs _ TxState.noConfusion ⟨TxState.noConfusion, rfl⟩
  | clo2 => exact ⟨TxState.noConfusion, rfl⟩
  | chi => exact running_stuffRegs _ TxState.noConfusion ⟨TxState.noConfusion, rfl⟩
  | chi2 => exact ⟨TxState.noConfusion, rfl⟩
  | trail => exact absurd hst hopen

/-- Before the closing terminator the engine writes no lock register (R220). -/
theorem txStep_locks_of_ne_trail {s : State} (hopen : s.tx.state ≠ .trail) :
    (txStep s).locks = s.locks := by
  unfold txStep
  cases hst : s.tx.state with
  | trail => exact absurd hst hopen
  | _ => rfl

/-- The closing terminator frees the lock of a SLIPMUX call; a SLIP call holds none (R155, R220). -/
theorem TxLockFits.trailStep {s : State} (h : TxLockFits s) : TxLockFits (trailStep s) := by
  refine lockFits_of_free ?_ (not_not_intro rfl)
  cases hm : s.tx.mode with
  | slip => simpa [trailStep_eq, emitted, hm, TxLockFits, LockFits] using h
  | slipmux => simp [trailStep_eq, emitted, hm]

theorem TxLockFits.txStep {s : State} (h : TxLockFits s) : TxLockFits (txStep s) := by
  by_cases hidle : s.tx.state = .idle
  · rwa [Machine.txStep, hidle]
  by_cases htrail : s.tx.state = .trail
  · rw [Machine.txStep, htrail]
    exact h.trailStep
  · rw [TxLockFits, txStep_locks_of_ne_trail htrail]
    exact LockFits.goesOn h hidle (txStep_running hidle htrail)

/-! ### The decode engine (R162 to R170, R199 to R203, R220) -/

/-- A result frees the lock of a SLIPMUX call; a SLIP call holds none (R169, R202, R220). -/
theorem rxLockFits_result {s : State} (n : Nat) (c e : Bool)
    (h : s.locks.rxLock = true → s.rx.mode = .slipmux) : RxLockFits (result n c e s) := by
  rcases result_cases n c e s with ⟨hm, hr⟩ | ⟨_, hr⟩ <;> rw [hr]
  · exact lockFits_of_free (Bool.eq_false_iff.2 fun hl => nomatch hm.symm.trans (h hl))
      (not_not_intro rfl)
  · exact lockFits_of_free rfl (not_not_intro rfl)

theorem noise_state_mode (s : State) :
    (noise s).rx.state = s.rx.state ∧ (noise s).rx.mode = s.rx.mode := by
  rcases noise_cases s with ⟨_, h⟩ | ⟨_, h⟩ <;> rw [h] <;> exact ⟨rfl, rfl⟩

theorem deliver_state_mode (d : Byte) (s : State) :
    (deliver d s).rx.state = s.rx.state ∧ (deliver d s).rx.mode = s.rx.mode := by
  rcases deliver_cases d s with ⟨_, _, h⟩ | ⟨_, h⟩ <;> rw [h]
  · exact ⟨rfl, rfl⟩
  · rcases store_cases d s with ⟨_, h⟩ | ⟨_, h⟩ <;> rw [h] <;> exact ⟨rfl, rfl⟩

/-- Each step of the decode engine goes on with the call or ends it and frees its lock (R162 to R166,
R220). -/
theorem RxLockFits.rxStep {s : State} (h : RxLockFits s) : RxLockFits (rxStep s) := by
  have hmux (hl : s.locks.rxLock = true) : s.rx.mode = .slipmux := (h.1 hl).2
  have goesOn (hbusy : s.rx.state ≠ .idle) {t : State} (hlocks : t.locks = s.locks)
      (hon : t.rx.state ≠ .idle ∧ t.rx.mode = s.rx.mode) : RxLockFits t := by
    rw [RxLockFits, hlocks]
    exact LockFits.goesOn h hbusy hon
  unfold Machine.rxStep
  cases hst : s.rx.state with
  | idle => exact h
  | drain =>
    have hbusy : s.rx.state ≠ .idle := by simp [hst]
    rcases drainStep_cases s with ⟨_, _, he⟩ | ⟨_, _, he⟩ | ⟨_, _, _, he⟩ | ⟨_, _, _, he⟩ |
      ⟨_, _, he⟩ | ⟨_, _, _, he⟩ <;> simp only [he]
    · exact rxLockFits_result _ _ _ hmux
    · exact goesOn hbusy (raiseFatal_locks _ _) (by rw [raiseFatal_rx]; exact ⟨hbusy, rfl⟩)
    · exact rxLockFits_result _ _ _ hmux
    · obtain ⟨hstate, hmode⟩ := noise_state_mode (popByte s)
      exact goesOn hbusy (noise_locks _) ⟨hstate ▸ hbusy, hmode⟩
    · exact goesOn hbusy rfl ⟨RxState.noConfusion, rfl⟩
    · obtain ⟨hstate, hmode⟩ := deliver_state_mode (headByte s) (popByte s)
      exact goesOn hbusy (deliver_locks _ _) ⟨hstate ▸ hbusy, hmode⟩
  | esc =>
    rcases escStep_cases s with ⟨_, he⟩ | ⟨_, he⟩ <;> simp only [he]
    · exact rxLockFits_result _ _ _ hmux
    · exact goesOn (by simp [hst]) (escByte_locks _ _)
        ⟨RxState.noConfusion, (deliver_state_mode _ (popByte s)).2⟩

/-- A start whose mode fits the lock leaves the lock with the call, or frees it where the call ends at
once (R161, R196, R197). -/
theorem rxLockFits_startRx {s : State} {m : Mode} (q cap : Nat) (st : DecodeState)
    (h : s.locks.rxLock = true ↔ m = .slipmux) : RxLockFits (startRx m q cap st s) := by
  unfold startRx
  dsimp only
  split
  · exact rxLockFits_result _ _ _ h.1
  · exact h.trans ⟨fun hm => ⟨RxState.noConfusion, hm⟩, fun hm => hm.2⟩

/-! ### Every step (R217) -/

/-- A plain command starts only while its direction's lock is free (R224). -/
theorem lockHeld_of_plainStarts {d : Dir} {s : State} (h : plainStarts d s = true) :
    lockHeld d s = false := ((plainStarts_iff d s).1 h).2.1

/-- The end of a cycle writes the wait counters alone of the lock registers (R218). -/
theorem clkTimer_lockBits (waited asked : List (Dir × Nat)) (s : State) :
    (clkTimer waited asked s).locks.txLock = s.locks.txLock ∧
      (clkTimer waited asked s).locks.rxLock = s.locks.rxLock := by
  rcases clkTimer_cases waited asked s with ⟨_, h⟩ | ⟨_, _, _, h⟩ | ⟨_, _, _, h⟩ <;> simp [h]

theorem AtomicStep.txLockFits {edge : Option State} {s t : State} (h : AtomicStep edge s t)
    (hs : TxLockFits s) : TxLockFits t := by
  have kept {t : State} (htx : t.tx = s.tx) (hlock : t.locks.txLock = s.locks.txLock) :
      TxLockFits t := by
    rw [TxLockFits, htx, hlock]
    exact hs
  cases h with
  | tx _ => exact hs.txStep
  | startTx q len p _ hstarts => exact lockFits_slip (lockHeld_of_plainStarts hstarts)
  | grantTx q _ _ => exact ⟨fun _ => ⟨TxState.noConfusion, rfl⟩, fun _ => rfl⟩
  | ingest b _ _ => exact kept (ingestByte_tx b s) (congrArg _ (ingestByte_locks b s))
  | ingestFull _ _ => exact kept (raiseFatal_tx _ s) (congrArg _ (raiseFatal_locks _ s))
  | timeout _ _ _ _ _ => exact kept (raiseFatal_tx _ s) (congrArg _ (raiseFatal_locks _ s))
  | rx _ => exact kept (rxStep_tx s) (rxStep_txLock s)
  | startRx _ _ _ _ _ => exact kept (startRx_tx _ _ _ _ _) (startRx_txLock _ _ _ _ _)
  | grantRx _ _ _ => exact kept (startRx_tx _ _ _ _ _) (startRx_txLock _ _ _ _ _)
  | tick _ _ _ => exact kept (clkTimer_tx _ _ _) (clkTimer_lockBits _ _ s).1
  | _ => exact hs

theorem AtomicStep.rxLockFits {edge : Option State} {s t : State} (h : AtomicStep edge s t)
    (hs : RxLockFits s) : RxLockFits t := by
  have kept {t : State} (hrx : t.rx = s.rx) (hlock : t.locks.rxLock = s.locks.rxLock) :
      RxLockFits t := by
    rw [RxLockFits, hrx, hlock]
    exact hs
  cases h with
  | rx _ => exact hs.rxStep
  | startRx q cap st _ hstarts =>
    have hlock : s.locks.rxLock = false := lockHeld_of_plainStarts hstarts
    exact rxLockFits_startRx q cap st
      ⟨fun hl => absurd (hlock.symm.trans hl) Bool.false_ne_true, fun hm => nomatch hm⟩
  | grantRx q _ _ => exact rxLockFits_startRx q _ _ ⟨fun _ => rfl, fun _ => rfl⟩
  | ingest b _ _ => exact kept (ingestByte_rx b s) (congrArg _ (ingestByte_locks b s))
  | ingestFull _ _ => exact kept (raiseFatal_rx _ s) (congrArg _ (raiseFatal_locks _ s))
  | timeout _ _ _ _ _ => exact kept (raiseFatal_rx _ s) (congrArg _ (raiseFatal_locks _ s))
  | tx _ =>
    refine kept (txStep_rx s) ?_
    rcases txStep_locks_cases s with hl | hl <;> rw [hl]
  | tick _ _ _ => exact kept (clkTimer_rx _ _ _) (clkTimer_lockBits _ _ s).2
  | _ => exact hs

/-- Settles O52: an atomic step keeps each lock with its engine's call, a bare push touches neither, and
a reset leaves both free and both engines idle. -/
theorem stepKeepsLockInv : Obligations.StepKeepsLockInv := by
  intro s t hs h
  refine step_keeps LockInv (fun edge s t hst hs => ?_) s t hs h
  cases hst with
  | atomic h =>
    obtain ⟨htx, hrx⟩ := (lockInv_iff s).1 hs
    exact (lockInv_iff t).2 ⟨h.txLockFits htx, h.rxLockFits hrx⟩
  | push b _ _ => exact { hs with }
  | reset _ _ => exact lockInv_resetFor _ _

end Sys2Proof.Machine
end

section
/-! The end of a `clk` cycle (spec/46_concurrency_guard.md R218, R221, R222; spec/60_exceptions.md R246):
which requests time out, which counters run, and what a cycle without operations does. -/

namespace Sys2Proof.Machine

/- As in the tests: side by side these proofs take more threads than the check has memory for. -/
set_option Elab.async false

/-! ### Who waits and who times out (R218, R221) -/

theorem mem_blockedRequests {d : Dir} {q : Nat} {s : State} :
    (d, q) ∈ blockedRequests s ↔ q < s.cfg.nreq ∧ blocked d q s = true := by
  cases d <;> simp [blockedRequests]

section
variable {waited asked : List (Dir × Nat)} {d : Dir} {q : Nat} {s : State}

theorem timesOut_of_mem (hwaited : (d, q) ∈ waited)
    (hexpired : (d, q) ∈ asked ∨ (waits d s).getD q 0 = s.cfg.lockTimeout) :
    timesOut waited asked d s = true := by
  refine List.any_eq_true.2 ⟨(d, q), hwaited, ?_⟩
  simpa using hexpired

theorem timesOut_eq_false_of
    (h : ∀ k, (d, k) ∈ waited → (d, k) ∉ asked ∧ (waits d s).getD k 0 ≠ s.cfg.lockTimeout) :
    timesOut waited asked d s = false := by
  refine List.any_eq_false.2 fun (d', k) hp hexpired => ?_
  obtain ⟨hd, hexpired⟩ := Bool.and_eq_true_iff.1 hexpired
  obtain rfl : d' = d := beq_iff_eq.1 hd
  obtain ⟨hasked, hwait⟩ := h k hp
  rcases Bool.or_eq_true_iff.1 hexpired with hk | hk
  · exact hasked (List.contains_iff_mem.1 hk)
  · exact hwait (beq_iff_eq.1 hk)

/-- A request times out by its counter and the limit alone, where the timeouts asked for are the same. -/
theorem timesOut_congr {t : State} (hcfg : t.cfg = s.cfg)
    (hwaits : ∀ k, (d, k) ∈ waited → (waits d t).getD k 0 = (waits d s).getD k 0) :
    timesOut waited asked d t = timesOut waited asked d s := by
  rw [Bool.eq_iff_iff, timesOut, timesOut, List.any_eq_true, List.any_eq_true]
  refine exists_congr fun (d', k) => and_congr_right fun hk => ?_
  by_cases hd : d' = d
  · subst hd
    rw [hwaits k hk, hcfg]
  · simp [hd]

/-- The fault is recorded in the host domain, and nothing else changed (R236). -/
def faulted (x : HostFault) (s : State) : State := { s with faults := { s.faults with hfault := x } }

/-- The counters of the requests that waited have run (R218). -/
def ticked (waited : List (Dir × Nat)) (s : State) : State :=
  { s with locks := { s.locks with
      txWait := tickedWaits waited .tx s
      rxWait := tickedWaits waited .rx s } }

theorem clkTimer_of_halted (hhalt : hostHalted s = true) : clkTimer waited asked s = s := if_pos hhalt

/-- A transmit request that times out raises, whatever the receive requests do (R221, R246). -/
theorem clkTimer_of_timesOut_tx (hrun : hostHalted s = false)
    (htx : timesOut waited asked .tx s = true) :
    clkTimer waited asked s = faulted .txLockTimeout s := by
  rw [clkTimer, if_neg (Bool.eq_false_iff.1 hrun), if_pos htx, raiseFatal_timeoutCause .tx hrun]
  rfl

/-- A receive request that times out raises where no transmit request does (R221, R246). -/
theorem clkTimer_of_timesOut_rx (hrun : hostHalted s = false)
    (htx : timesOut waited asked .tx s = false) (hrx : timesOut waited asked .rx s = true) :
    clkTimer waited asked s = faulted .rxLockTimeout s := by
  rw [clkTimer, if_neg (Bool.eq_false_iff.1 hrun), if_neg (Bool.eq_false_iff.1 htx), if_pos hrx,
    raiseFatal_timeoutCause .rx hrun]
  rfl

/-- Where no request times out the counters run (R218). -/
theorem clkTimer_of_none (hrun : hostHalted s = false)
    (htimes : ∀ d, timesOut waited asked d s = false) :
    clkTimer waited asked s = ticked waited s := by
  rw [clkTimer, if_neg (Bool.eq_false_iff.1 hrun), if_neg (Bool.eq_false_iff.1 (htimes .tx)),
    if_neg (Bool.eq_false_iff.1 (htimes .rx))]
  rfl

/-- A slot's counter goes up by one where the slot's request waited, and else stays (R218). -/
theorem getD_tickedWaits (hq : q < (waits d s).length) :
    (tickedWaits waited d s).getD q 0 =
      (waits d s).getD q 0 + if (d, q) ∈ waited then 1 else 0 := by
  simp only [tickedWaits, List.getD_eq_getElem?_getD, List.getElem?_mapIdx,
    List.getElem?_eq_getElem hq, Option.map_some, Option.getD_some, List.contains_iff_mem]
  split <;> rfl

end

/-! ### A cycle without operations -/

section
variable {q : Nat} {s : State}

theorem SlotInv.waits_length (hs : SlotInv s) (d : Dir) : (waits d s).length = s.cfg.nreq := by
  cases d
  · exact hs.txWait_length
  · exact hs.rxWait_length

/-- No blocked request has waited out its time: none times out unasked (R221). -/
theorem timesOut_blockedRequests_of_ne {d : Dir} {asked : List (Dir × Nat)}
    (hasked : ∀ k, (d, k) ∉ asked)
    (h : ∀ k, blocked d k s = true → (waits d s).getD k 0 ≠ s.cfg.lockTimeout) :
    timesOut (blockedRequests s) asked d s = false :=
  timesOut_eq_false_of fun k hk => ⟨hasked k, h k (mem_blockedRequests.1 hk).2⟩

theorem clkTick_of_tx_expired (hq : q < s.cfg.nreq) (hrun : hostHalted s = false)
    (hblocked : blocked .tx q s = true) (hwait : s.locks.txWait.getD q 0 = s.cfg.lockTimeout) :
    clkTick s = faulted .txLockTimeout s :=
  clkTimer_of_timesOut_tx hrun (timesOut_of_mem (mem_blockedRequests.2 ⟨hq, hblocked⟩) (.inr hwait))

theorem clkTick_of_rx_expired (hq : q < s.cfg.nreq) (hrun : hostHalted s = false)
    (hblocked : blocked .rx q s = true) (hwait : s.locks.rxWait.getD q 0 = s.cfg.lockTimeout)
    (htx : ∀ k, blocked .tx k s = true → s.locks.txWait.getD k 0 ≠ s.cfg.lockTimeout) :
    clkTick s = faulted .rxLockTimeout s :=
  clkTimer_of_timesOut_rx hrun (timesOut_blockedRequests_of_ne (fun _ => List.not_mem_nil) htx)
    (timesOut_of_mem (mem_blockedRequests.2 ⟨hq, hblocked⟩) (.inr hwait))

theorem clkTick_of_none_expired (hrun : hostHalted s = false)
    (h : ∀ d k, blocked d k s = true → (waits d s).getD k 0 ≠ s.cfg.lockTimeout) :
    clkTick s = ticked (blockedRequests s) s :=
  clkTimer_of_none hrun fun d =>
    timesOut_blockedRequests_of_ne (fun _ => List.not_mem_nil) (h d)

/-- With every blocked request's counter run by a cycle, exactly the blocked slots' counters are one
higher (R218). -/
theorem getD_tickedWaits_blockedRequests (hs : SlotInv s) (hq : q < s.cfg.nreq) (d : Dir) :
    (tickedWaits (blockedRequests s) d s).getD q 0 =
      (waits d s).getD q 0 + if blocked d q s = true then 1 else 0 := by
  rw [getD_tickedWaits ((hs.waits_length d).symm ▸ hq)]
  simp only [mem_blockedRequests, hq, true_and]

end

/-- The entry `tick` is a cycle without operations (log 19). -/
theorem step_tick {s : State} {rest : List Event} (hscript : s.env.script = .tick :: rest) :
    step s = .next (clkTick { s with env := { s.env with script := rest } }) :=
  step_of_script_cons hscript

end Sys2Proof.Machine
end

section
/-! The operations of one `clk` cycle, one after the other (spec/46_concurrency_guard.md R217 to R221;
spec/60_exceptions.md R246; log 22): how a listed cycle runs, what a grant does, and the timeouts that
a cycle's end raises or a grant prevents. -/

namespace Sys2Proof.Machine

/- As in the tests: side by side these proofs take more threads than the check has memory for. -/
set_option Elab.async false

/-! ### A listed cycle -/

theorem decodeAll_cons_of_ok {c : Params} {pw : PortWord} {pws : List PortWord} {i : Instr}
    {is : List Instr} (hpw : decode c pw = .ok i) (hpws : decodeAll c pws = .ok is) :
    decodeAll c (pw :: pws) = .ok (i :: is) := by
  simp only [decodeAll, hpw, hpws]

theorem step_cycle {s : State} {pws : List PortWord} {rest : List Event} {is : List Instr}
    (hscript : s.env.script = .cycle pws :: rest) (hdecode : decodeAll s.cfg pws = .ok is) :
    step s = runCycle is { s with env := { s.env with script := rest } } := by
  rw [step_of_script_cons hscript]
  simp only [runEvent, hdecode]

theorem execCycle_cons_of_next {c : Cycle} {i : Instr} {is : List Instr} {s t : State}
    (h : c.exec i s = .next t) : execCycle (i :: is) c s = execCycle is (c.after i s t) t := by
  simp only [execCycle, h]

theorem runCycle_of_next {is : List Instr} {s t : State}
    (h : execCycle is (Cycle.begin s) (withStrobes (is.flatMap strobesOf) s) = .next t) :
    runCycle is s = .next (withStrobes [] t) := by
  simp only [runCycle, h]

theorem withStrobes_nil_of_idle {s : State} (h : s.env.strobes = []) : withStrobes [] s = s := by
  rw [withStrobes, ← h]

/-- A command start asks the cycle first (R219, R224, R287). -/
theorem Cycle.exec_of_startsCommand {i : Instr} (h : startsCommand i = true) (c : Cycle) (s : State) :
    c.exec i s = if c.admits i then execOnEdge c.edge i s else turnedAway i s := by
  unfold Cycle.exec
  split
  · cases h
  · exact if_pos h

/-- A timeout listed in a cycle waits for the cycle's end (R221, R246). -/
theorem Cycle.exec_lockTimeout {q : Nat} {s : State} (hq : q < s.cfg.nreq) (c : Cycle) (d : Dir) :
    c.exec (.lockTimeout d q) s = .next s := withSlot_of_lt _ hq

/-- The directions started are one more where the operation starts a command. -/
theorem Cycle.started_after {c : Cycle} {i : Instr} {s : State} {o : Option Dir}
    (h : c.startOf i s = o) (t : State) : (c.after i s t).started = c.started ++ o.toList :=
  congrArg (fun o => c.started ++ Option.toList o) h

/-- What the cycle remembers does not change where nothing starts, no timeout is asked for and every
request goes on waiting. -/
theorem Cycle.after_eq_self {c : Cycle} {i : Instr} {s t : State} (hstart : c.startOf i s = none)
    (hi : ∀ d q, i ≠ .lockTimeout d q) (hwaited : ∀ p ∈ c.waited, blocked p.1 p.2 t = true) :
    c.after i s t = c := by
  have htimeouts : (c.after i s t).timeouts = c.timeouts := by
    unfold Cycle.after
    split
    · exact absurd rfl (hi _ _)
    · rfl
  have hwait : c.waited.filter (fun p => blocked p.1 p.2 t) = c.waited :=
    List.filter_eq_self.2 hwaited
  calc c.after i s t
      = { edge := c.edge
          started := c.started ++ (c.startOf i s).toList
          waited := c.waited.filter fun p => blocked p.1 p.2 t
          timeouts := (c.after i s t).timeouts } := rfl
    _ = c := by rw [htimeouts, hwait, hstart, Option.toList_none, List.append_nil]

/-! ### A timeout listed alone (R222) -/

theorem runCycle_lockTimeout {d : Dir} {q : Nat} {s : State} (hq : q < s.cfg.nreq)
    (hstrobes : s.env.strobes = []) :
    runCycle [.lockTimeout d q] s = .next (clkTimer (blockedRequests s) [(d, q)] s) := by
  have hwaited : (blockedRequests s).filter (fun p => blocked p.1 p.2 s) = blockedRequests s :=
    List.filter_eq_self.2 fun _ => blocked_of_mem_blockedRequests
  have hend : withStrobes [] (clkTimer (blockedRequests s) [(d, q)] s) =
      clkTimer (blockedRequests s) [(d, q)] s :=
    withStrobes_nil_of_idle ((congrArg Env.strobes (clkTimer_env _ _ s)).trans hstrobes)
  rw [← hend]
  refine runCycle_of_next ?_
  rw [show [Instr.lockTimeout d q].flatMap strobesOf = [] from rfl, withStrobes_nil_of_idle hstrobes,
    execCycle_cons_of_next (Cycle.exec_lockTimeout hq _ d)]
  simp only [execCycle, Cycle.finish, Cycle.after, Cycle.begin, hwaited, List.nil_append]

/-! ### The grant (R217) -/

/-- The grant of direction `d` to slot `q` (R217). -/
def grantOf (d : Dir) (q : Nat) (s : State) : State :=
  match d with
  | .tx => grantTx q s
  | .rx => grantRx q s

/-- What a grant to slot `q` of direction `d` does to the guard, and that it leaves the other direction
alone (R217, R248). -/
structure Granted (d : Dir) (q : Nat) (s t : State) : Prop where
  cfg_eq : t.cfg = s.cfg
  faults_eq : t.faults = s.faults
  views_eq : t.views = s.views
  requests_eq : requests d t = (requests d s).set q false
  owner_eq : ownerOf d t = q
  grants_eq : t.ghost.grants = s.ghost.grants ++ [(d, q)]
  refusedPosts_eq : t.ghost.refusedPosts = s.ghost.refusedPosts
  other : ∀ d', d' ≠ d → requests d' t = requests d' s ∧ waits d' t = waits d' s ∧
    unavailable d' t = unavailable d' s ∧ ownerOf d' t = ownerOf d' s

theorem startRx_ghost (m : Mode) (q cap : Nat) (st : DecodeState) (s : State) :
    (startRx m q cap st s).ghost =
      { s.ghost with dstTrace := [], grants := s.ghost.grants ++ [(.rx, q)] } := by
  unfold startRx
  dsimp only
  split
  · exact result_ghost _ _ _ _
  · rfl

theorem slotsOf_startRx (m : Mode) (q cap : Nat) (st : DecodeState) (s : State) :
    slotsOf (startRx m q cap st s) = { slotsOf s with rxOwner := q } := by
  unfold startRx
  dsimp only
  split
  · exact slotsOf_result _ _ _ _
  · rfl

theorem grantRx_ghost (q : Nat) (s : State) :
    (grantRx q s).ghost =
      { s.ghost with dstTrace := [], grants := s.ghost.grants ++ [(.rx, q)] } := startRx_ghost _ _ _ _ _

theorem slotsOf_grantRx (q : Nat) (s : State) :
    slotsOf (grantRx q s) = { slotsOf s with
      rxReq := s.locks.rxReq.set q false, rxWait := s.locks.rxWait.set q 0, rxOwner := q } :=
  slotsOf_startRx _ _ _ _ _

theorem granted_grantTx (q : Nat) (s : State) : Granted .tx q s (grantTx q s) where
  cfg_eq := rfl
  faults_eq := rfl
  views_eq := rfl
  requests_eq := rfl
  owner_eq := rfl
  grants_eq := rfl
  refusedPosts_eq := rfl
  other d hd := by
    cases d with
    | tx => exact absurd rfl hd
    | rx => exact ⟨rfl, rfl, rfl, rfl⟩

theorem granted_grantRx (q : Nat) (s : State) : Granted .rx q s (grantRx q s) where
  cfg_eq := startRx_cfg _ _ _ _ _
  faults_eq := startRx_faults _ _ _ _ _
  views_eq := startRx_views _ _ _ _ _
  requests_eq := congrArg SlotPart.rxReq (slotsOf_grantRx q s)
  owner_eq := congrArg SlotPart.rxOwner (slotsOf_grantRx q s)
  grants_eq := congrArg Ghost.grants (grantRx_ghost q s)
  refusedPosts_eq := by rw [grantRx_ghost]
  other d hd := by
    cases d with
    | rx => exact absurd rfl hd
    | tx =>
      have hlock : (grantRx q s).locks.txLock = s.locks.txLock := startRx_txLock _ _ _ _ _
      have htx : (grantRx q s).tx = s.tx := startRx_tx _ _ _ _ _
      have hfree : unavailable .tx (grantRx q s) = unavailable .tx s := by
        simp only [unavailable, lockHeld, engineBusy, hlock, htx]
      exact ⟨congrArg SlotPart.txReq (slotsOf_grantRx q s),
        congrArg SlotPart.txWait (slotsOf_grantRx q s), hfree, congrArg TxRegs.owner htx⟩

theorem granted_grantOf (d : Dir) (q : Nat) (s : State) : Granted d q s (grantOf d q s) := by
  cases d
  · exact granted_grantTx q s
  · exact granted_grantRx q s

theorem Granted.requested_self {d : Dir} {q : Nat} {s t : State} (h : Granted d q s t) :
    requested d q t = false := by
  rw [requested, h.requests_eq, List.getD_eq_getElem?_getD, List.getElem?_set_self']
  cases (requests d s)[q]? <;> rfl

theorem Granted.requested_of_ne {d : Dir} {q k : Nat} {s t : State} (h : Granted d q s t)
    (hk : q ≠ k) : requested d k t = requested d k s := by
  rw [requested, h.requests_eq, List.getD_eq_getElem?_getD, List.getElem?_set_ne hk,
    ← List.getD_eq_getElem?_getD, requested]

/-- A grant commutes with what the fault bits are (R246). -/
theorem grantOf_withHostFaultsOf (d : Dir) (q : Nat) (edge s : State) :
    withHostFaultsOf s (grantOf d q (withHostFaultsOf edge s)) = grantOf d q s := by
  cases d
  · rfl
  · exact startRx_withHostFaultsOf edge
      { s with locks := { setRequest .rx q false s.locks with rxLock := true } } _ _ _ _

theorem exec_lockGrant_of_grantable {d : Dir} {q : Nat} {s : State} (hq : q < s.cfg.nreq)
    (h : grantable d q s = true) : exec (.lockGrant d q) s = .next (grantOf d q s) := by
  cases d
  · exact exec_lockGrant_tx_of_grantable hq h
  · exact exec_lockGrant_rx_of_grantable hq h

/-- The cycle has started no command of the direction, and the host domain ran when it began: a request
that may be granted is granted, and the direction's one start has been (R217, R219, R246). -/
theorem Cycle.lockGrant_of_available {c : Cycle} {d : Dir} {q : Nat} {s : State}
    (hstarted : d ∉ c.started) (hedge : hostHalted c.edge = false) (hq : q < s.cfg.nreq)
    (hreq : requested d q s = true) (havail : unavailable d s = false) :
    c.exec (.lockGrant d q) s = .next (grantOf d q s) ∧
      c.startOf (.lockGrant d q) s = some d := by
  have hadmits : c.admits (.lockGrant d q) = true := by simpa [Cycle.admits] using hstarted
  have hgrant : grantable d q (withHostFaultsOf c.edge s) = true :=
    grantable_of_available hreq havail hedge
  have hexec : Machine.exec (.lockGrant d q) (withHostFaultsOf c.edge s) =
      .next (grantOf d q (withHostFaultsOf c.edge s)) := exec_lockGrant_of_grantable hq hgrant
  refine ⟨?_, if_pos (by rw [hadmits, hgrant]; rfl)⟩
  rw [Cycle.exec_of_startsCommand rfl, if_pos hadmits, execOnEdge, hexec]
  exact congrArg _ (grantOf_withHostFaultsOf d q c.edge s)

/-! ### What the end of a cycle leaves of the guard -/

/-- `t` is `u` as far as the requests, the owners and the model's traces go. -/
structure EndsAs (u t : State) : Prop where
  requests_eq : ∀ d, requests d t = requests d u
  owner_eq : ∀ d, ownerOf d t = ownerOf d u
  ghost_eq : t.ghost = u.ghost

theorem EndsAs.requested_eq {u t : State} (h : EndsAs u t) (d : Dir) (q : Nat) :
    requested d q t = requested d q u := by
  rw [requested, h.requests_eq, requested]

/-- The timeouts and the counters touch none of them (R218, R221, R248). -/
theorem endsAs_clkTimer (waited asked : List (Dir × Nat)) (u : State) :
    EndsAs u (withStrobes [] (clkTimer waited asked u)) where
  requests_eq d := by
    rcases clkTimer_cases waited asked u with ⟨_, h⟩ | ⟨_, _, _, h⟩ | ⟨_, _, _, h⟩ <;> rw [h] <;>
      cases d
    · rfl
    · rfl
    · exact congrArg LockRegs.txReq (raiseFatal_locks _ u)
    · exact congrArg LockRegs.rxReq (raiseFatal_locks _ u)
    · rfl
    · rfl
  owner_eq d := by
    cases d
    · exact congrArg TxRegs.owner (clkTimer_tx _ _ u)
    · exact congrArg RxRegs.owner (clkTimer_rx _ _ u)
  ghost_eq := clkTimer_ghost _ _ u

/-! ### A grant made possible in the cycle wins over the timeout (R221, R246) -/

/-- The step from `s` to `v` has released the lock of direction `d` and touched nothing else of the
guard. -/
structure Released (d : Dir) (s v : State) : Prop where
  slots_eq : slotsOf v = slotsOf s
  faults_eq : v.faults = s.faults
  views_eq : v.views = s.views
  grants_eq : v.ghost.grants = s.ghost.grants
  free : unavailable d v = false

theorem requests_of_slotsOf_eq {s t : State} (h : slotsOf t = slotsOf s) (d : Dir) :
    requests d t = requests d s := by
  cases d
  · exact congrArg SlotPart.txReq h
  · exact congrArg SlotPart.rxReq h

theorem waits_of_slotsOf_eq {s t : State} (h : slotsOf t = slotsOf s) (d : Dir) :
    waits d t = waits d s := by
  cases d
  · exact congrArg SlotPart.txWait h
  · exact congrArg SlotPart.rxWait h

/-- The step that ends a SLIPMUX decode call is a result (R202, R203). -/
theorem rxStep_of_rxEnds {s : State} (h : rxEnds s = true) :
    ∃ n c u, rxStep s = result n c false u ∧ u.rx.mode = s.rx.mode ∧ u.faults = s.faults ∧
      u.ghost.grants = s.ghost.grants := by
  unfold rxEnds at h
  split at h
  · cases h
  · rename_i hst
    rw [rxStep_of_drain hst]
    split at h
    · rename_i he
      exact ⟨s.rx.rcv, false, s, by rw [drainStep, if_pos he, if_pos (beq_iff_eq.1 h)], rfl, rfl, rfl⟩
    · rename_i he
      obtain ⟨hhead, hrcv⟩ := Bool.and_eq_true_iff.1 h
      have hcomplete : drainStep s = complete (popByte s) := by
        rw [drainStep_of_not_empty (Bool.eq_false_iff.2 he), beq_iff_eq.1 hhead]
        exact drainByte_terminator_of_pos (s := popByte s) (of_decide_eq_true hrcv)
      exact ⟨completedLength (popByte s), true, { popByte s with rx := { (popByte s).rx with
        consumed := modAdd s.cfg.cw s.rx.consumed 1 } }, hcomplete, rfl, rfl, rfl⟩
  · rename_i hst
    rw [rxStep_of_esc hst]
    exact ⟨s.rx.rcv, false, s, if_pos h, rfl, rfl, rfl⟩

/-- LOCK_RELEASE at the end of an `SMX_DEC` call releases the receive lock (R220). -/
theorem released_lockRelease_rx {s : State} (hrun : hostHalted s = false)
    (hmode : s.rx.mode = .slipmux) (hends : rxEnds s = true) :
    ∃ v, exec (.lockRelease .rx) s = .next v ∧ Released .rx s v := by
  obtain ⟨n, c, u, hstep, humode, hfaults, hgrants⟩ := rxStep_of_rxEnds hends
  have hfree : unavailable .rx (result n c false u) = false := by
    rcases result_cases n c false u with ⟨hm, _⟩ | ⟨_, he⟩
    · exact nomatch hm.symm.trans (humode.trans hmode)
    · rw [he]; rfl
  exact ⟨rxStep s, exec_lockRelease_rx_of_ends hrun hmode hends,
    { slots_eq := slotsOf_rxStep s
      faults_eq := by rw [hstep, result_faults, hfaults]
      views_eq := rxStep_views s
      grants_eq := by rw [hstep, result_ghost, hgrants]
      free := hstep ▸ hfree }⟩

/-- LOCK_RELEASE at the closing terminator of an `SMX_ENC` call releases the transmit lock (R155,
R220). -/
theorem released_lockRelease_tx {s : State} (hrun : hostHalted s = false)
    (hmode : s.tx.mode = .slipmux) (hst : s.tx.state = .trail) (hsink : s.env.sinkReady = true) :
    ∃ v, exec (.lockRelease .tx) s = .next v ∧ Released .tx s v := by
  have hat : txAt .trail s = true := by simp [txAt, txReady, hst, hsink, hrun]
  have hstep : txStep s = trailStep s := by rw [txStep, hst]
  refine ⟨trailStep s, congrArg _ ((if_pos hmode).trans (whenTxAt_of_txAt trailStep hat)),
    hstep ▸ slotsOf_txStep s, rfl, rfl, rfl, ?_⟩
  rw [trailStep_eq]
  simp only [hmode]
  rfl

/-- A release and a grant in a cycle that has started nothing: the request is granted, and no request of
the direction has been blocked all through the cycle. -/
theorem execCycle_release_grant {c : Cycle} {d : Dir} {q : Nat} {s v : State} (hq : q < s.cfg.nreq)
    (hstarted : c.started = []) (hedge : hostHalted c.edge = false)
    (hreq : requested d q s = true) (hrelease : exec (.lockRelease d) s = .next v)
    (hv : Released d s v) :
    ∃ waited, (∀ p ∈ waited, p ∈ c.waited ∧ p.1 ≠ d) ∧
      execCycle [.lockRelease d, .lockGrant d q] c s =
        .next (clkTimer waited c.timeouts (grantOf d q v)) := by
  have hreq' : requested d q v = true := by
    rw [requested, requests_of_slotsOf_eq hv.slots_eq]
    exact hreq
  have hcfg : v.cfg = s.cfg := congrArg SlotPart.cfg hv.slots_eq
  have hgrant := (Cycle.lockGrant_of_available (c := c.after (.lockRelease d) s v)
    (by simp [Cycle.after, Cycle.startOf, hstarted]) hedge (hcfg ▸ hq) hreq' hv.free).1
  refine ⟨((c.after (.lockRelease d) s v).after (.lockGrant d q) v (grantOf d q v)).waited,
    fun p hp => ?_, ?_⟩
  · obtain ⟨hp, hblocked⟩ := List.mem_filter.1 (List.mem_filter.1 hp).1
    refine ⟨hp, fun hd => ?_⟩
    rw [blocked, hd, hv.free, Bool.and_false] at hblocked
    cases hblocked
  · rw [execCycle_cons_of_next (c := c) (i := .lockRelease d) hrelease, execCycle_cons_of_next hgrant]
    rfl

/-- A request that a release in the cycle makes grantable and that is granted raises nothing, whether or
not its timeout is listed, where no request of the other direction has waited out its time (R221,
R246). -/
theorem runCycle_release_grant {is : List Instr} {d : Dir} {q : Nat} {s v : State}
    (his : is = [.lockRelease d, .lockGrant d q] ∨
      is = [.lockTimeout d q, .lockRelease d, .lockGrant d q])
    (hq : q < s.cfg.nreq) (hstrobes : s.env.strobes = []) (hrun : hostHalted s = false)
    (hreq : requested d q s = true) (hrelease : exec (.lockRelease d) s = .next v)
    (hv : Released d s v)
    (hother : ∀ d' k, d' ≠ d → blocked d' k s = true →
      (waits d' s).getD k 0 ≠ s.cfg.lockTimeout) :
    ∃ t, runCycle is s = .next t ∧ t.faults = s.faults ∧ requested d q t = false ∧
      ownerOf d t = q ∧ t.ghost.grants = s.ghost.grants ++ [(d, q)] := by
  have hg := granted_grantOf d q v
  have hcfg : (grantOf d q v).cfg = s.cfg := hg.cfg_eq.trans (congrArg SlotPart.cfg hv.slots_eq)
  have hfaults : (grantOf d q v).faults = s.faults := hg.faults_eq.trans hv.faults_eq
  have hrun' : hostHalted (grantOf d q v) = false := by
    rw [hostHalted, hfaults, hg.views_eq.trans hv.views_eq]
    exact hrun
  have hidle : withStrobes (is.flatMap strobesOf) s = s := by
    rcases his with rfl | rfl <;> exact withStrobes_nil_of_idle hstrobes
  obtain ⟨waited, asked, hwaited, hasked, hcycle⟩ : ∃ waited asked,
      (∀ p ∈ waited, p ∈ blockedRequests s ∧ p.1 ≠ d) ∧ (∀ p ∈ asked, p.1 = d) ∧
      execCycle is (Cycle.begin s) s = .next (clkTimer waited asked (grantOf d q v)) := by
    rcases his with rfl | rfl
    · obtain ⟨waited, hwaited, hcycle⟩ :=
        execCycle_release_grant (c := Cycle.begin s) hq rfl hrun hreq hrelease hv
      exact ⟨waited, [], hwaited, nofun, hcycle⟩
    · obtain ⟨waited, hwaited, hcycle⟩ := execCycle_release_grant
        (c := (Cycle.begin s).after (.lockTimeout d q) s s) hq rfl hrun hreq hrelease hv
      refine ⟨waited, [(d, q)], fun p hp => ?_, by simp, ?_⟩
      · exact ⟨(List.mem_filter.1 (hwaited p hp).1).1, (hwaited p hp).2⟩
      · exact (execCycle_cons_of_next (Cycle.exec_lockTimeout hq _ d)).trans hcycle
  have htimes (d' : Dir) : timesOut waited asked d' (grantOf d q v) = false := by
    refine timesOut_eq_false_of fun k hk => ?_
    obtain ⟨hk, hd⟩ := hwaited _ hk
    refine ⟨fun ha => hd (hasked _ ha), ?_⟩
    rw [(hg.other d' hd).2.1, waits_of_slotsOf_eq hv.slots_eq, hcfg]
    exact hother d' k hd (mem_blockedRequests.1 hk).2
  have hend := endsAs_clkTimer waited asked (grantOf d q v)
  refine ⟨_, runCycle_of_next ((congrArg _ hidle).trans hcycle), ?_, ?_, ?_, ?_⟩
  · rw [clkTimer_of_none hrun' htimes]
    exact hfaults
  · rw [hend.requested_eq, hg.requested_self]
  · rw [hend.owner_eq, hg.owner_eq]
  · rw [hend.ghost_eq, hg.grants_eq, hv.grants_eq]

theorem decode_lockGrant {c : Params} {q : Nat} (hq : q < c.nreq) (d : Dir) :
    decode c (.internalStep (.lockGrant d q)) = .ok (.lockGrant d q) :=
  decode_lockGrant_ok_iff.2 ⟨decide_eq_true hq, rfl⟩

theorem decode_lockTimeout {c : Params} {q : Nat} (hq : q < c.nreq) (d : Dir) :
    decode c (.internalStep (.lockTimeout d q)) = .ok (.lockTimeout d q) :=
  decode_lockTimeout_ok_iff.2 ⟨decide_eq_true hq, rfl⟩

/-- The words of a release and a grant, with the timeout or without, select those operations. -/
theorem decodeAll_release_grant {c : Params} {pws : List PortWord} {d : Dir} {q : Nat}
    (hq : q < c.nreq)
    (hpws : pws = [.internalStep (.lockRelease d), .internalStep (.lockGrant d q)] ∨
      pws = [.internalStep (.lockTimeout d q), .internalStep (.lockRelease d),
        .internalStep (.lockGrant d q)]) :
    ∃ is, decodeAll c pws = .ok is ∧ (is = [.lockRelease d, .lockGrant d q] ∨
      is = [.lockTimeout d q, .lockRelease d, .lockGrant d q]) := by
  have hpair : decodeAll c [.internalStep (.lockRelease d), .internalStep (.lockGrant d q)] =
      .ok [.lockRelease d, .lockGrant d q] :=
    decodeAll_cons_of_ok rfl (decodeAll_cons_of_ok (decode_lockGrant hq d) rfl)
  rcases hpws with rfl | rfl
  · exact ⟨_, hpair, .inl rfl⟩
  · exact ⟨_, decodeAll_cons_of_ok (decode_lockTimeout hq d) hpair, .inr rfl⟩

theorem step_lockTimeout {s : State} {rest : List Event} {d : Dir} {q : Nat}
    (hscript : s.env.script = .cycle [.internalStep (.lockTimeout d q)] :: rest)
    (hstrobes : s.env.strobes = []) (hq : q < s.cfg.nreq) :
    step s = .next (clkTimer (blockedRequests s) [(d, q)]
      { s with env := { s.env with script := rest } }) :=
  (step_cycle hscript (decodeAll_cons_of_ok (decode_lockTimeout hq d) rfl)).trans
    (runCycle_lockTimeout (s := { s with env := { s.env with script := rest } }) hq hstrobes)

/-- Settles O58: a cycle ends in `clkTimer` of the requests that stayed blocked, among which no granted
direction has one; the entry off the schedule touches nothing `clkTimer` reads. -/
theorem clockTickRunsTheWaitCounters : Obligations.ClockTickRunsTheWaitCounters := by
  refine ⟨fun s rest q hscript hs hq => ⟨fun hhalt => ?_, fun hrun hblocked hwait => ?_,
      fun hrun hblocked hwait htx => ?_, fun hrun hnone => ?_⟩,
    fun s rest pws q hscript hstrobes hs hq hrun => ⟨fun hpws hblocked => ?_,
      fun hpws hblocked htx => ?_, fun hpws hmode hends hreq htx => ?_,
      fun hpws hmode hst hsink hreq hrx => ?_⟩⟩
  · rw [step_tick hscript]
    exact congrArg _ (clkTimer_of_halted hhalt)
  · rw [step_tick hscript]
    exact congrArg _ (clkTick_of_tx_expired
      (s := { s with env := { s.env with script := rest } }) hq hrun hblocked hwait)
  · rw [step_tick hscript]
    exact congrArg _ (clkTick_of_rx_expired
      (s := { s with env := { s.env with script := rest } }) hq hrun hblocked hwait htx)
  · have htick := clkTick_of_none_expired
      (s := { s with env := { s.env with script := rest } }) hrun hnone
    refine ⟨_, (step_tick hscript).trans (congrArg _ htick), rfl, ?_, ?_⟩
    · exact getD_tickedWaits_blockedRequests hs hq .tx
    · exact getD_tickedWaits_blockedRequests hs hq .rx
  · subst hpws
    rw [step_lockTimeout hscript hstrobes hq]
    exact congrArg _ (clkTimer_of_timesOut_tx
      (s := { s with env := { s.env with script := rest } }) hrun
      (timesOut_of_mem (mem_blockedRequests.2 ⟨hq, hblocked⟩) (.inl (List.mem_singleton_self _))))
  · subst hpws
    rw [step_lockTimeout hscript hstrobes hq]
    exact congrArg _ (clkTimer_of_timesOut_rx
      (s := { s with env := { s.env with script := rest } }) hrun
      (timesOut_blockedRequests_of_ne (fun _ => by simp) htx)
      (timesOut_of_mem (mem_blockedRequests.2 ⟨hq, hblocked⟩) (.inl (List.mem_singleton_self _))))
  · obtain ⟨is, hdecode, his⟩ := decodeAll_release_grant hq hpws
    obtain ⟨v, hrelease, hv⟩ := released_lockRelease_rx
      (s := { s with env := { s.env with script := rest } }) hrun hmode hends
    rw [step_cycle hscript hdecode]
    refine runCycle_release_grant his hq hstrobes hrun hreq hrelease hv fun d k hd => ?_
    cases d with
    | tx => exact htx k
    | rx => exact absurd rfl hd
  · obtain ⟨is, hdecode, his⟩ := decodeAll_release_grant hq hpws
    obtain ⟨v, hrelease, hv⟩ := released_lockRelease_tx
      (s := { s with env := { s.env with script := rest } }) hrun hmode hst hsink
    rw [step_cycle hscript hdecode]
    refine runCycle_release_grant his hq hstrobes hrun hreq hrelease hv fun d k hd => ?_
    cases d with
    | tx => exact absurd rfl hd
    | rx => exact hrx k

end Sys2Proof.Machine
end

section
/-! Command starts of one `clk` cycle (spec/46_concurrency_guard.md R217, R219, R224, R225;
spec/60_exceptions.md R246; spec/70_reset_and_hazards.md R287; log 14, log 22): plain and SLIPMUX posts
beside each other, grants beside each other and beside a plain post, and a start on a fault's edge. -/

namespace Sys2Proof.Machine

/- As in the tests: side by side these proofs take more threads than the check has memory for. -/
set_option Elab.async false

/-! ### Plain commands in a cycle (R224, R225) -/

/-- The command posted on slot `q` in SLIP mode (R150, R160). -/
def Command.plain (q : Nat) : Command → Instr
  | .encode port => .slipEnc q port.len port.payload
  | .decode port => .slipDec q port.cap

theorem strobesOf_plain (cmd : Command) (q : Nat) :
    strobesOf (cmd.plain q) = [.start cmd.dir .slip q] := by
  cases cmd <;> rfl

theorem strobesOf_mux (cmd : Command) (q : Nat) :
    strobesOf (cmd.mux q) = [.start cmd.dir .slipmux q] := by
  cases cmd <;> rfl

/-- The cycle or the rules of a plain start are against the command (R224, R225). -/
def Command.Refused (cmd : Command) (c : Cycle) (q : Nat) (s : State) : Prop :=
  c.admits (cmd.plain q) = false ∨ plainStarts cmd.dir (withHostFaultsOf c.edge s) = false

/-- A plain command that is refused is marked, and starts nothing (R224, log 14). -/
theorem Command.Refused.exec {cmd : Command} {c : Cycle} {q : Nat} {s : State}
    (h : cmd.Refused c q s) (hq : q < s.cfg.nreq) :
    c.exec (cmd.plain q) s = .next (markRefused cmd.dir q s) := by
  have haway : turnedAway (cmd.plain q) s = .next (markRefused cmd.dir q s) := by
    cases cmd <;> exact withSlot_of_lt _ hq
  have hedge (hstarts : plainStarts cmd.dir (withHostFaultsOf c.edge s) = false) :
      execOnEdge c.edge (cmd.plain q) s = .next (markRefused cmd.dir q s) := by
    have hexec : Machine.exec (cmd.plain q) (withHostFaultsOf c.edge s) =
        .next (markRefused cmd.dir q (withHostFaultsOf c.edge s)) := by
      cases cmd <;>
        exact (withSlot_of_lt _ hq).trans (congrArg _ (if_neg (Bool.eq_false_iff.1 hstarts)))
    rw [execOnEdge, hexec]
    rfl
  rw [Cycle.exec_of_startsCommand (by cases cmd <;> rfl)]
  split
  · rename_i hadmits
    exact hedge (h.resolve_left (Bool.eq_false_iff.not_left.2 hadmits))
  · exact haway

theorem Command.Refused.startOf {cmd : Command} {c : Cycle} {q : Nat} {s : State}
    (h : cmd.Refused c q s) : c.startOf (cmd.plain q) s = none := by
  have hguard : ¬ (c.admits (cmd.plain q) && plainStarts cmd.dir (withHostFaultsOf c.edge s)) = true := by
    rw [Bool.and_eq_true]
    rintro ⟨hadmits, hstarts⟩
    rcases h with h | h
    · exact Bool.eq_false_iff.1 h hadmits
    · exact Bool.eq_false_iff.1 h hstarts
  cases cmd <;> exact if_neg hguard

/-- A refused command is as good as not listed, but for its mark: the rest of the cycle sees the same
requests and the same memory of the cycle (R224). -/
theorem execCycle_cons_refused {cmd : Command} {c : Cycle} {q : Nat} {s : State} {is : List Instr}
    (h : cmd.Refused c q s) (hq : q < s.cfg.nreq)
    (hwaited : ∀ p ∈ c.waited, blocked p.1 p.2 s = true) :
    execCycle (cmd.plain q :: is) c s = execCycle is c (markRefused cmd.dir q s) := by
  rw [execCycle_cons_of_next (h.exec hq),
    Cycle.after_eq_self (t := markRefused cmd.dir q s) h.startOf (by cases cmd <;> nofun) hwaited]

/-- Beside a SLIPMUX post of its direction no plain command starts (R224). -/
theorem plainStarts_eq_false_of_muxPosted {d : Dir} {q : Nat} {s : State}
    (h : Strobe.start d .slipmux q ∈ s.env.strobes) : plainStarts d s = false :=
  plainStarts_eq_false fun hmay => hmay.2.2.2.1 q h

/-- Two plain commands of one direction refuse each other (R225). -/
theorem plainStarts_eq_false_of_two {d : Dir} {q q' : Nat} {s : State}
    (h : s.env.strobes = [.start d .slip q, .start d .slip q']) : plainStarts d s = false := by
  have hcount : plainPosted d s = 2 := by simp [plainPosted, h]
  exact plainStarts_eq_false fun hmay => absurd hmay.2.2.2.2.1 (by simp [hcount])

/-! ### SLIPMUX posts in a cycle (R217, R224) -/

/-- A SLIPMUX post of a cycle goes through where its slot is free and the host domain ran at the cycle's
beginning (R217, R246). -/
theorem Cycle.exec_mux_of_free {c : Cycle} {cmd : Command} {q : Nat} {s : State} (hq : q < s.cfg.nreq)
    (hedge : hostHalted c.edge = false) (hfree : slotBusy cmd.dir q s = false) :
    c.exec (cmd.mux q) s = .next (cmd.muxPosted q s) := by
  have hadmits : c.admits (cmd.mux q) = true := by cases cmd <;> rfl
  have hexec : Machine.exec (cmd.mux q) (withHostFaultsOf c.edge s) =
      .next (cmd.muxPosted q (withHostFaultsOf c.edge s)) :=
    Machine.exec_mux_of_free (s := withHostFaultsOf c.edge s) hq hedge hfree
  rw [Cycle.exec_of_startsCommand (by cases cmd <;> rfl), if_pos hadmits, execOnEdge, hexec]
  cases cmd <;> rfl

/-- A post raises its own request bit and no other (R217). -/
theorem requests_muxPosted (cmd : Command) (q : Nat) (s : State) (d : Dir) :
    requests d (cmd.muxPosted q s) =
      if d = cmd.dir then (requests d s).set q true else requests d s := by
  cases cmd <;> cases d <;> rfl

theorem unavailable_muxPosted (cmd : Command) (q : Nat) (s : State) (d : Dir) :
    unavailable d (cmd.muxPosted q s) = unavailable d s := by
  cases cmd <;> cases d <;> rfl

theorem cfg_muxPosted (cmd : Command) (q : Nat) (s : State) : (cmd.muxPosted q s).cfg = s.cfg := by
  cases cmd <;> rfl

theorem strobes_muxPosted (cmd : Command) (q : Nat) (s : State) :
    (cmd.muxPosted q s).env.strobes = s.env.strobes := by
  cases cmd <;> rfl

theorem getD_set_true_of_getD {l : List Bool} {k : Nat} (q : Nat) (h : l.getD k false = true) :
    (l.set q true).getD k false = true := by
  rw [List.getD_eq_getElem?_getD] at h ⊢
  by_cases hk : q = k
  · subst hk
    rw [List.getElem?_set_self']
    cases hl : l[q]? with
    | none => rw [hl] at h; cases h
    | some _ => rfl
  · rwa [List.getElem?_set_ne hk]

/-- Every request goes on waiting beside a post. -/
theorem blocked_muxPosted {d : Dir} {k : Nat} {s : State} (cmd : Command) (q : Nat)
    (h : blocked d k s = true) : blocked d k (cmd.muxPosted q s) = true := by
  obtain ⟨hreq, hunavailable⟩ := Bool.and_eq_true_iff.1 h
  refine Bool.and_eq_true_iff.2 ⟨?_, (unavailable_muxPosted cmd q s d).trans hunavailable⟩
  rw [requested, requests_muxPosted]
  split
  · exact getD_set_true_of_getD q hreq
  · exact hreq

/-- A SLIPMUX post leaves the cycle's memory as it is. -/
theorem execCycle_cons_mux {cmd : Command} {c : Cycle} {q : Nat} {s : State} {is : List Instr}
    (hq : q < s.cfg.nreq) (hedge : hostHalted c.edge = false) (hfree : slotBusy cmd.dir q s = false)
    (hwaited : ∀ p ∈ c.waited, blocked p.1 p.2 s = true) :
    execCycle (cmd.mux q :: is) c s = execCycle is c (cmd.muxPosted q s) := by
  rw [execCycle_cons_of_next (Cycle.exec_mux_of_free hq hedge hfree),
    Cycle.after_eq_self (i := cmd.mux q) (by cases cmd <;> rfl) (by cases cmd <;> nofun)
      fun p hp => blocked_muxPosted cmd q (hwaited p hp)]

/-! ### What the end of a cycle does not look at -/

section
variable {waited asked : List (Dir × Nat)} {s : State}

/-- A change that the halt, the timeouts and the counters do not see may as well come after the end of the
cycle. -/
theorem clkTimer_comm {f : State → State} (hhalt : hostHalted (f s) = hostHalted s)
    (htimes : ∀ d, timesOut waited asked d (f s) = timesOut waited asked d s)
    (hfaults : ∀ x, faulted x (f s) = f (faulted x s))
    (hticked : ticked waited (f s) = f (ticked waited s)) :
    clkTimer waited asked (f s) = f (clkTimer waited asked s) := by
  cases hrun : hostHalted s with
  | true => rw [clkTimer_of_halted hrun, clkTimer_of_halted (hhalt.trans hrun)]
  | false =>
    have hrun' := hhalt.trans hrun
    cases htx : timesOut waited asked .tx s with
    | true =>
      rw [clkTimer_of_timesOut_tx hrun htx, clkTimer_of_timesOut_tx hrun' ((htimes .tx).trans htx),
        hfaults]
    | false =>
      cases hrx : timesOut waited asked .rx s with
      | true =>
        rw [clkTimer_of_timesOut_rx hrun htx hrx, clkTimer_of_timesOut_rx hrun'
          ((htimes .tx).trans htx) ((htimes .rx).trans hrx), hfaults]
      | false =>
        have hnone : ∀ d, timesOut waited asked d s = false := Dir.rec htx hrx
        rw [clkTimer_of_none hrun hnone, clkTimer_of_none hrun' fun d => (htimes d).trans (hnone d),
          hticked]

theorem clkTimer_withStrobes (ps : List Strobe) :
    clkTimer waited asked (withStrobes ps s) = withStrobes ps (clkTimer waited asked s) :=
  clkTimer_comm rfl (fun _ => rfl) (fun _ => rfl) rfl

theorem clkTimer_markRefused (d : Dir) (q : Nat) :
    clkTimer waited asked (markRefused d q s) = markRefused d q (clkTimer waited asked s) :=
  clkTimer_comm rfl (fun _ => rfl) (fun _ => rfl) rfl

/-- Another slot's wait counter stands as before a post (R217). -/
theorem getD_waits_muxPosted {cmd : Command} {q k : Nat} {d : Dir} (h : (d, k) ≠ (cmd.dir, q)) :
    (waits d (cmd.muxPosted q s)).getD k 0 = (waits d s).getD k 0 := by
  have other {l : List Nat} (hk : q ≠ k) : (l.set q 0).getD k 0 = l.getD k 0 := by
    rw [List.getD_eq_getElem?_getD, List.getElem?_set_ne hk, ← List.getD_eq_getElem?_getD]
  have hne (hd : d = cmd.dir) : q ≠ k := fun hk => h (by rw [hd, hk])
  cases cmd <;> cases d
  · exact other (hne rfl)
  · rfl
  · rfl
  · exact other (hne rfl)

/-- A post clears its own counter, which does not run where its request has not waited (R217, R218). -/
theorem ticked_muxPosted {cmd : Command} {q : Nat} (h : (cmd.dir, q) ∉ waited) :
    ticked waited (cmd.muxPosted q s) = cmd.muxPosted q (ticked waited s) := by
  have hset (l : List Nat) :
      ((l.set q 0).mapIdx fun k n => if waited.contains (cmd.dir, k) then n + 1 else n) =
        (l.mapIdx fun k n => if waited.contains (cmd.dir, k) then n + 1 else n).set q 0 := by
    rw [List.mapIdx_set, if_neg (mt List.contains_iff_mem.1 h)]
  cases cmd with
  | encode port =>
    have hwaits : tickedWaits waited .tx (Command.muxPosted q s (.encode port)) =
        (tickedWaits waited .tx s).set q 0 := hset s.locks.txWait
    rw [ticked, hwaits]
    rfl
  | decode port =>
    have hwaits : tickedWaits waited .rx (Command.muxPosted q s (.decode port)) =
        (tickedWaits waited .rx s).set q 0 := hset s.locks.rxWait
    rw [ticked, hwaits]
    rfl

/-- A post whose request has not waited may as well come after the end of the cycle. -/
theorem clkTimer_muxPosted {cmd : Command} {q : Nat} (h : (cmd.dir, q) ∉ waited) :
    clkTimer waited asked (cmd.muxPosted q s) = cmd.muxPosted q (clkTimer waited asked s) := by
  refine clkTimer_comm (f := fun s => cmd.muxPosted q s) (by cases cmd <;> rfl) (fun d => ?_)
    (fun _ => by cases cmd <;> rfl) (ticked_muxPosted h)
  refine timesOut_congr (cfg_muxPosted cmd q s) fun k hk => getD_waits_muxPosted fun heq => h (heq ▸ hk)

end

/-! ### Posts beside posts (R224, R225) -/

/-- What a cycle without operations does: the timeouts and the counters, and no input stays high. -/
def emptyCycle (s : State) : State := withStrobes [] (clkTick s)

theorem runCycle_nil (s : State) : runCycle [] s = .next (emptyCycle s) := by
  have hend : (Cycle.begin s).finish (withStrobes [] s) = withStrobes [] (clkTick s) :=
    clkTimer_withStrobes []
  have hcycle : runCycle [] s =
      .next (withStrobes [] ((Cycle.begin s).finish (withStrobes [] s))) := runCycle_of_next rfl
  rw [hcycle, hend]
  rfl

section
variable {cmd cmd' : Command} {q q' : Nat} {s : State}

/-- Two plain commands of one direction are both marked, and the cycle is an empty one besides (R225). -/
theorem runCycle_plain_plain (hdir : cmd'.dir = cmd.dir) (hq : q < s.cfg.nreq) (hq' : q' < s.cfg.nreq) :
    runCycle [cmd.plain q, cmd'.plain q'] s =
      .next (markRefused cmd.dir q' (markRefused cmd.dir q (emptyCycle s))) := by
  have hstrobes : [cmd.plain q, cmd'.plain q'].flatMap strobesOf =
      [.start cmd.dir .slip q, .start cmd.dir .slip q'] := by
    simp [strobesOf_plain, hdir]
  generalize hps : [cmd.plain q, cmd'.plain q'].flatMap strobesOf = ps at hstrobes
  have hwaited : ∀ p ∈ (Cycle.begin s).waited, blocked p.1 p.2 s = true := fun _ =>
    blocked_of_mem_blockedRequests
  have hfirst : cmd.Refused (Cycle.begin s) q (withStrobes ps s) :=
    .inr (plainStarts_eq_false_of_two hstrobes)
  have hsecond : cmd'.Refused (Cycle.begin s) q' (markRefused cmd.dir q (withStrobes ps s)) :=
    .inr (plainStarts_eq_false_of_two (q := q) (q' := q') (hdir.symm ▸ hstrobes))
  have hcycle : execCycle [cmd.plain q, cmd'.plain q'] (Cycle.begin s) (withStrobes ps s) =
      .next (markRefused cmd.dir q' (markRefused cmd.dir q (withStrobes ps (clkTick s)))) := by
    rw [execCycle_cons_refused hfirst hq hwaited,
      execCycle_cons_refused (s := markRefused cmd.dir q (withStrobes ps s)) hsecond hq' hwaited, hdir,
      execCycle, Cycle.finish, clkTimer_markRefused, clkTimer_markRefused, clkTimer_withStrobes]
    rfl
  exact runCycle_of_next (hps.symm ▸ hcycle)

/-- A plain command beside a SLIPMUX one of its direction is marked and the other posted, in whichever
order they are listed; the cycle is an empty one besides (R224). -/
theorem runCycle_plain_mux {is : List Instr} (hdir : cmd'.dir = cmd.dir) (hq : q < s.cfg.nreq)
    (hq' : q' < s.cfg.nreq) (hrun : hostHalted s = false) (hfree : slotBusy cmd'.dir q' s = false)
    (his : is = [cmd.plain q, cmd'.mux q'] ∨ is = [cmd'.mux q', cmd.plain q]) :
    runCycle is s = .next (cmd'.muxPosted q' (markRefused cmd.dir q (emptyCycle s))) := by
  have hstrobe : Strobe.start cmd.dir .slipmux q' ∈ is.flatMap strobesOf := by
    rcases his with rfl | rfl <;> simp [strobesOf_plain, strobesOf_mux, hdir]
  generalize hps : is.flatMap strobesOf = ps at hstrobe
  have hwaited : ∀ p ∈ (Cycle.begin s).waited, blocked p.1 p.2 s = true := fun _ =>
    blocked_of_mem_blockedRequests
  have hnew : (cmd'.dir, q') ∉ blockedRequests s := fun hmem => by
    have hreq := (Bool.and_eq_true_iff.1 (mem_blockedRequests.1 hmem).2).1
    rw [slotBusy, hreq] at hfree
    cases hfree
  have hcycle : execCycle is (Cycle.begin s) (withStrobes ps s) =
      .next (cmd'.muxPosted q' (markRefused cmd.dir q (withStrobes ps (clkTick s)))) := by
    have hfinish : (Cycle.begin s).finish (cmd'.muxPosted q' (markRefused cmd.dir q (withStrobes ps s))) =
        cmd'.muxPosted q' (markRefused cmd.dir q (withStrobes ps (clkTick s))) := by
      rw [Cycle.finish, clkTimer_muxPosted (waited := (Cycle.begin s).waited) hnew,
        clkTimer_markRefused, clkTimer_withStrobes]
      rfl
    rcases his with rfl | rfl
    · have hrefused : cmd.Refused (Cycle.begin s) q (withStrobes ps s) :=
        .inr (plainStarts_eq_false_of_muxPosted hstrobe)
      rw [execCycle_cons_refused hrefused hq hwaited,
        execCycle_cons_mux (s := markRefused cmd.dir q (withStrobes ps s)) hq' hrun hfree hwaited,
        execCycle, hfinish]
    · have hrefused : cmd.Refused (Cycle.begin s) q (cmd'.muxPosted q' (withStrobes ps s)) :=
        .inr (plainStarts_eq_false_of_muxPosted (q := q')
          (strobes_muxPosted cmd' q' (withStrobes ps s) ▸ hstrobe))
      have hcomm : markRefused cmd.dir q (cmd'.muxPosted q' (withStrobes ps s)) =
          cmd'.muxPosted q' (markRefused cmd.dir q (withStrobes ps s)) := by
        cases cmd' <;> rfl
      rw [execCycle_cons_mux (s := withStrobes ps s) hq' hrun hfree hwaited,
        execCycle_cons_refused hrefused (cfg_muxPosted cmd' q' (withStrobes ps s) ▸ hq)
          fun p hp => blocked_muxPosted cmd' q' (hwaited p hp),
        execCycle, hcomm, hfinish]
  refine (runCycle_of_next (hps.symm ▸ hcycle)).trans ?_
  cases cmd' <;> rfl

end

/-! ### The words of a post (R101) -/

/-- The command on its ports, with the mode bit `m` (R101). -/
def Command.word (m : BitVec 1) (q : Nat) : Command → PortWord
  | .encode port => .txCommand q m port.type port.len port.payload
  | .decode port => .rxCommand q m port.cap port.stIn

/-- The command's length or capacity, which stands on `LW` wires (R100). -/
def Command.width : Command → Nat
  | .encode port => port.len
  | .decode port => port.cap

section
variable {c : Params} {cmd cmd' : Command} {q q' : Nat}

theorem decode_plain_word (hq : q < c.nreq) (hw : cmd.width < 2 ^ c.lw) :
    decode c (cmd.word 0#1 q) = .ok (cmd.plain q) := by
  cases cmd with
  | encode port => exact decode_txCommand_ok_iff.2 ⟨⟨decide_eq_true hq, decide_eq_true hw⟩, rfl⟩
  | decode port => exact decode_rxCommand_ok_iff.2 ⟨⟨decide_eq_true hq, decide_eq_true hw⟩, rfl⟩

theorem decode_mux_word (hq : q < c.nreq) (hw : cmd.width < 2 ^ c.lw) :
    decode c (cmd.word 1#1 q) = .ok (cmd.mux q) := by
  cases cmd with
  | encode port => exact decode_txCommand_ok_iff.2 ⟨⟨decide_eq_true hq, decide_eq_true hw⟩, rfl⟩
  | decode port => exact decode_rxCommand_ok_iff.2 ⟨⟨decide_eq_true hq, decide_eq_true hw⟩, rfl⟩

/-- Two words, in whichever order, select their operations in that order. -/
theorem decodeAll_pair {pw pw' : PortWord} {i i' : Instr} {pws : List PortWord}
    (hpw : decode c pw = .ok i) (hpw' : decode c pw' = .ok i')
    (hpws : pws = [pw, pw'] ∨ pws = [pw', pw]) :
    ∃ is, decodeAll c pws = .ok is ∧ (is = [i, i'] ∨ is = [i', i]) := by
  rcases hpws with rfl | rfl
  · exact ⟨_, decodeAll_cons_of_ok hpw (decodeAll_cons_of_ok hpw' rfl), .inl rfl⟩
  · exact ⟨_, decodeAll_cons_of_ok hpw' (decodeAll_cons_of_ok hpw rfl), .inr rfl⟩

end

theorem markRefused_markRefused {u : State} {l : List (Dir × Nat)} (h : u.ghost.refusedPosts = l)
    (d : Dir) (q q' : Nat) :
    markRefused d q' (markRefused d q u) =
      { u with ghost := { u.ghost with refusedPosts := l ++ [(d, q), (d, q')] } } := by
  simp [markRefused, h]

/-- The posts of one cycle, both plain or one plain and one SLIPMUX, as the cycle's words select them: the
marks and the post beside an empty cycle (R224, R225). -/
theorem step_posts {s : State} {rest : List Event} {cmd cmd' : Command} {q q' : Nat}
    (hdir : cmd'.dir = cmd.dir) (hq : q < s.cfg.nreq) (hq' : q' < s.cfg.nreq)
    (hw : cmd.width < 2 ^ s.cfg.lw) (hw' : cmd'.width < 2 ^ s.cfg.lw) :
    ∃ u, step { s with env := { s.env with script := .cycle [] :: rest } } = .next u ∧
      u.rx = s.rx ∧ u.tx = s.tx ∧
      (s.env.script = .cycle [cmd.word 0#1 q, cmd'.word 0#1 q'] :: rest →
        step s = .next { u with ghost := { u.ghost with
          refusedPosts := s.ghost.refusedPosts ++ [(cmd.dir, q), (cmd.dir, q')] } }) ∧
      (∀ pws : List PortWord, s.env.script = .cycle pws :: rest →
        pws = [cmd.word 0#1 q, cmd'.word 1#1 q'] ∨ pws = [cmd'.word 1#1 q', cmd.word 0#1 q] →
        hostHalted s = false → slotBusy cmd.dir q' s = false →
        ∃ t, step s = .next t ∧ t.rx = u.rx ∧ t.tx = u.tx ∧ t.faults = u.faults ∧
          t.locks = setRequest cmd.dir q' true u.locks ∧
          t.ghost = { u.ghost with
            refusedPosts := s.ghost.refusedPosts ++ [(cmd.dir, q)] }) := by
  have hghost : (emptyCycle { s with env := { s.env with script := rest } }).ghost = s.ghost :=
    clkTimer_ghost _ _ _
  refine ⟨emptyCycle { s with env := { s.env with script := rest } },
    (step_cycle rfl rfl).trans (runCycle_nil _), clkTimer_rx _ _ _, clkTimer_tx _ _ _,
    fun hscript => ?_, fun pws hscript hpws hrun hfree => ?_⟩
  · have hdecode := decodeAll_cons_of_ok (decode_plain_word hq hw)
      (decodeAll_cons_of_ok (pws := []) (decode_plain_word hq' hw') rfl)
    have hcycle := runCycle_plain_plain (s := { s with env := { s.env with script := rest } })
      hdir hq hq'
    rw [markRefused_markRefused (congrArg Ghost.refusedPosts hghost)] at hcycle
    exact (step_cycle hscript hdecode).trans hcycle
  · obtain ⟨is, hdecode, his⟩ :=
      decodeAll_pair (decode_plain_word hq hw) (decode_mux_word hq' hw') hpws
    refine ⟨_, (step_cycle hscript hdecode).trans
      (runCycle_plain_mux hdir hq hq' hrun (hdir.symm ▸ hfree) his), ?_⟩
    have hmark := congrArg (fun g : Ghost => { (emptyCycle { s with
      env := { s.env with script := rest } }).ghost with
        refusedPosts := g.refusedPosts ++ [(cmd.dir, q)] }) hghost
    rw [← hdir] at hmark ⊢
    cases cmd' <;> exact ⟨rfl, rfl, rfl, rfl, hmark⟩

/-! ### Grants beside grants and plain posts (R219, R224, R287) -/

theorem grantable_iff {d : Dir} {q : Nat} {s : State} :
    grantable d q s = true ↔
      requested d q s = true ∧ unavailable d s = false ∧ hostHalted s = false := by
  rw [grantable, Bool.and_eq_true, Bool.and_eq_true, Bool.not_eq_true', Bool.not_eq_true', and_assoc]

/-- Two operations and the cycle's end. -/
theorem runCycle_pair {i j : Instr} {s t u : State}
    (hi : (Cycle.begin s).exec i (withStrobes ([i, j].flatMap strobesOf) s) = .next t)
    (hj : ((Cycle.begin s).after i (withStrobes ([i, j].flatMap strobesOf) s) t).exec j t = .next u) :
    ∃ v, runCycle [i, j] s = .next v ∧ EndsAs u v := by
  have hcycle := (execCycle_cons_of_next (is := [j]) hi).trans (execCycle_cons_of_next (is := []) hj)
  exact ⟨_, runCycle_of_next hcycle, endsAs_clkTimer _ _ u⟩

/-- A direction has its one start of the cycle, and the next request goes on waiting (R219, R287). -/
theorem Cycle.exec_lockGrant_of_started {c : Cycle} {d : Dir} (h : d ∈ c.started) (q : Nat)
    (s : State) : c.exec (.lockGrant d q) s = .next s := by
  have hadmits : ¬ c.admits (.lockGrant d q) = true := by simpa [Cycle.admits] using h
  rw [Cycle.exec_of_startsCommand rfl, if_neg hadmits]
  rfl

section
variable {d : Dir} {q q' : Nat} {s : State}

/-- The first operation of a cycle is a grant that its beginning allows. -/
theorem begin_lockGrant (hq : q < s.cfg.nreq) (h : grantable d q s = true) (ps : List Strobe) :
    (Cycle.begin s).exec (.lockGrant d q) (withStrobes ps s) =
        .next (grantOf d q (withStrobes ps s)) ∧
      (Cycle.begin s).startOf (.lockGrant d q) (withStrobes ps s) = some d := by
  obtain ⟨hreq, havail, hrun⟩ := grantable_iff.1 h
  exact Cycle.lockGrant_of_available (s := withStrobes ps s) List.not_mem_nil hrun hq hreq havail

/-- Of two grantable requests of a direction the one listed first is granted (R219). -/
theorem runCycle_grant_grant (hq : q < s.cfg.nreq) (hne : q ≠ q') (h : grantable d q s = true)
    (h' : grantable d q' s = true) :
    ∃ t, runCycle [.lockGrant d q, .lockGrant d q'] s = .next t ∧ requested d q t = false ∧
      requested d q' t = true ∧ ownerOf d t = q ∧
      t.ghost.grants = s.ghost.grants ++ [(d, q)] := by
  obtain ⟨hfirst, hstart⟩ := begin_lockGrant hq h []
  have hg := granted_grantOf d q (withStrobes [] s)
  have hsecond := Cycle.exec_lockGrant_of_started (d := d)
    (c := (Cycle.begin s).after (.lockGrant d q) (withStrobes [] s) (grantOf d q (withStrobes [] s)))
    (by rw [Cycle.started_after hstart]; exact List.mem_singleton_self d) q'
    (grantOf d q (withStrobes [] s))
  obtain ⟨t, hcycle, hend⟩ :=
    runCycle_pair (i := .lockGrant d q) (j := .lockGrant d q') hfirst hsecond
  refine ⟨t, hcycle, ?_, ?_, ?_, ?_⟩
  · rw [hend.requested_eq, hg.requested_self]
  · rw [hend.requested_eq, hg.requested_of_ne hne]
    exact (grantable_iff.1 h').1
  · rw [hend.owner_eq, hg.owner_eq]
  · rw [hend.ghost_eq, hg.grants_eq]
    rfl

/-- A transmit and a receive grant of one cycle both happen (R287). -/
theorem runCycle_grantTx_grantRx (hq : q < s.cfg.nreq) (hq' : q' < s.cfg.nreq)
    (h : grantable .tx q s = true) (h' : grantable .rx q' s = true) :
    ∃ t, runCycle [.lockGrant .tx q, .lockGrant .rx q'] s = .next t ∧ requested .tx q t = false ∧
      requested .rx q' t = false ∧ ownerOf .tx t = q ∧ ownerOf .rx t = q' ∧
      t.ghost.grants = s.ghost.grants ++ [(.tx, q), (.rx, q')] := by
  obtain ⟨hfirst, hstart⟩ := begin_lockGrant hq h []
  obtain ⟨hreq', havail', hrun⟩ := grantable_iff.1 h'
  have hg := granted_grantOf .tx q (withStrobes [] s)
  have hg' := granted_grantOf .rx q' (grantOf .tx q (withStrobes [] s))
  obtain ⟨hrequests, _, havail, _⟩ := hg.other .rx Dir.noConfusion
  obtain ⟨hrequestsTx, _, _, hownerTx⟩ := hg'.other .tx Dir.noConfusion
  have hsecond := (Cycle.lockGrant_of_available (d := .rx) (q := q')
    (c := (Cycle.begin s).after (.lockGrant .tx q) (withStrobes [] s)
      (grantOf .tx q (withStrobes [] s)))
    (by rw [Cycle.started_after hstart]; exact nofun) hrun (hg.cfg_eq ▸ hq')
    (by rw [requested, hrequests]; exact hreq') (havail.trans havail')).1
  obtain ⟨t, hcycle, hend⟩ :=
    runCycle_pair (i := .lockGrant .tx q) (j := .lockGrant .rx q') hfirst hsecond
  refine ⟨t, hcycle, ?_, ?_, ?_, ?_, ?_⟩
  · rw [hend.requested_eq, requested, hrequestsTx]
    exact hg.requested_self
  · rw [hend.requested_eq, hg'.requested_self]
  · rw [hend.owner_eq, hownerTx, hg.owner_eq]
  · rw [hend.owner_eq, hg'.owner_eq]
  · rw [hend.ghost_eq, hg'.grants_eq, hg.grants_eq, List.append_assoc]
    rfl

/-- In a cycle in whose beginning a request of its direction waits no plain command starts (R224). -/
theorem refused_of_requested {cmd : Command} {c : Cycle} (hreq : requested cmd.dir q c.edge = true)
    (k : Nat) (t : State) : cmd.Refused c k t := by
  have hmem : true ∈ requests cmd.dir c.edge := by
    rw [requested, List.getD_eq_getElem?_getD] at hreq
    cases hget : (requests cmd.dir c.edge)[q]? with
    | none => rw [hget] at hreq; cases hreq
    | some r =>
      rw [hget] at hreq
      exact List.mem_of_getElem? (hget.trans (congrArg some hreq))
  have hany : (requests cmd.dir c.edge).any id = true := List.any_eq_true.2 ⟨true, hmem, rfl⟩
  refine .inl ?_
  cases cmd <;> exact Bool.and_eq_false_iff.2 (.inr (congrArg not hany))

/-- A plain command beside a grant of its direction is marked and the grant happens, in whichever order
they are listed (R224). -/
theorem runCycle_grant_plain {cmd : Command} {is : List Instr} (hq : q < s.cfg.nreq)
    (hq' : q' < s.cfg.nreq) (h : grantable cmd.dir q s = true)
    (his : is = [.lockGrant cmd.dir q, cmd.plain q'] ∨ is = [cmd.plain q', .lockGrant cmd.dir q]) :
    ∃ t, runCycle is s = .next t ∧ requested cmd.dir q t = false ∧ ownerOf cmd.dir t = q ∧
      t.ghost.grants = s.ghost.grants ++ [(cmd.dir, q)] ∧
      t.ghost.refusedPosts = s.ghost.refusedPosts ++ [(cmd.dir, q')] := by
  obtain ⟨hreq, havail, hrun⟩ := grantable_iff.1 h
  have hrefused (c : Cycle) (hc : c.edge = s) (t : State) : cmd.Refused c q' t :=
    refused_of_requested (hc.symm ▸ hreq) q' t
  rcases his with rfl | rfl
  · have hg := granted_grantOf cmd.dir q
      (withStrobes ([Instr.lockGrant cmd.dir q, cmd.plain q'].flatMap strobesOf) s)
    obtain ⟨t, hcycle, hend⟩ := runCycle_pair (begin_lockGrant hq h _).1
      ((hrefused _ rfl _).exec (hg.cfg_eq ▸ hq'))
    refine ⟨t, hcycle, ?_, ?_, ?_, ?_⟩
    · rw [hend.requested_eq]
      exact hg.requested_self
    · rw [hend.owner_eq]
      exact hg.owner_eq
    · rw [hend.ghost_eq]
      exact hg.grants_eq
    · rw [hend.ghost_eq, markRefused_ghost, hg.refusedPosts_eq]
      rfl
  · generalize hps : [cmd.plain q', Instr.lockGrant cmd.dir q].flatMap strobesOf = ps
    have hplain := hrefused (Cycle.begin s) rfl (withStrobes ps s)
    have hg := granted_grantOf cmd.dir q (markRefused cmd.dir q' (withStrobes ps s))
    have hsecond := (Cycle.lockGrant_of_available (d := cmd.dir) (q := q)
      (c := (Cycle.begin s).after (cmd.plain q') (withStrobes ps s)
        (markRefused cmd.dir q' (withStrobes ps s)))
      (s := markRefused cmd.dir q' (withStrobes ps s))
      (by rw [Cycle.started_after hplain.startOf]; exact nofun) hrun hq hreq havail).1
    subst hps
    obtain ⟨t, hcycle, hend⟩ := runCycle_pair (hplain.exec hq') hsecond
    refine ⟨t, hcycle, ?_, ?_, ?_, ?_⟩
    · rw [hend.requested_eq, hg.requested_self]
    · rw [hend.owner_eq, hg.owner_eq]
    · rw [hend.ghost_eq, hg.grants_eq]
      rfl
    · rw [hend.ghost_eq, hg.refusedPosts_eq]
      rfl

end

/-! ### A start on a fault's edge (R246) -/

/-- A plain command posted alone in a cycle may start where it may without a cycle (R151, R161). -/
theorem plainMayStart_alone {d : Dir} {s : State} (h : plainMayStart d s) (q : Nat) :
    plainMayStart d (withStrobes [.start d .slip q] s) := by
  obtain ⟨hidle, hfree, hreq, _, _, hfault, hview⟩ := h
  exact ⟨hidle, hfree, hreq, by simp, by simp [plainPosted], hfault, hview⟩

/-- A plain encode that may start at the cycle's beginning starts, whatever fault the cycle has raised
since (R151, R246). -/
theorem Cycle.exec_slipEnc_of_mayStart {c : Cycle} {q len : Nat} {p : List Byte} {s : State}
    (hq : q < s.cfg.nreq) (hstarted : c.started = []) (hedge : ∀ r ∈ requests .tx c.edge, r = false)
    (h : plainMayStart .tx (withHostFaultsOf c.edge s)) :
    c.exec (.slipEnc q len p) s = .next (startTx .slip q 0#8 len (setTxPort q 0#8 len p s)) := by
  have hadmits : c.admits (.slipEnc q len p) = true := by
    simp only [Cycle.admits, hstarted, Bool.and_eq_true, Bool.not_eq_true', List.any_eq_false]
    exact ⟨rfl, fun r hr => by simp [hedge r hr]⟩
  have hexec := Machine.exec_slipEnc_of_mayStart (s := withHostFaultsOf c.edge s) len p hq h
  rw [Cycle.exec_of_startsCommand rfl, if_pos hadmits, execOnEdge, hexec]
  rfl

section
variable {q len : Nat} {p : List Byte} {s : State}

/-- A fault in `R_DRAIN` and a plain encode of one cycle: both happen, and the cycle's end finds the host
domain halted (R240, R246). -/
theorem runCycle_fault_slipEnc (hq : q < s.cfg.nreq) (hmay : plainMayStart .tx s)
    (hat : rxAt .drain s = true) (hempty : emptyR s = true) (hcount : countR s ≠ 0) :
    runCycle [.rDrain, .slipEnc q len p] s = .next (withStrobes []
      (startTx .slip q 0#8 len (setTxPort q 0#8 len p (faulted .countNotZeroOnEmpty s)))) := by
  obtain ⟨hdrain, _⟩ := drainOnEmptyQueue (withStrobes [.start .tx .slip q] s) hat hempty
  have hfirst : (Cycle.begin s).exec .rDrain (withStrobes [.start .tx .slip q] s) =
      .next (faulted .countNotZeroOnEmpty (withStrobes [.start .tx .slip q] s)) := hdrain hcount
  have hsecond := Cycle.exec_slipEnc_of_mayStart (len := len) (p := p)
    (c := (Cycle.begin s).after .rDrain (withStrobes [.start .tx .slip q] s)
      (faulted .countNotZeroOnEmpty (withStrobes [.start .tx .slip q] s)))
    (s := faulted .countNotZeroOnEmpty (withStrobes [.start .tx .slip q] s)) hq rfl hmay.2.2.1
    (plainMayStart_alone hmay q)
  have hcycle := (execCycle_cons_of_next (is := [.slipEnc q len p]) hfirst).trans
    (execCycle_cons_of_next (is := []) hsecond)
  have hend := runCycle_of_next (is := [.rDrain, .slipEnc q len p]) hcycle
  rw [Cycle.finish, clkTimer_of_halted rfl] at hend
  exact hend

/-- After the fault the started engine has no further step (R241, R246). -/
theorem exec_tLead_of_halted (hhalt : hostHalted s = true) : exec .tLead s = .next s := by
  have hat : txAt .lead s = false := by simp [txAt, txReady, hhalt]
  exact congrArg _ (whenTxAt_of_not_txAt leadStep hat)

/-- With the host domain halted at the beginning of the cycle neither happens: the command is marked
(R224, R241, R246). -/
theorem runCycle_halted_slipEnc (hq : q < s.cfg.nreq) (hhalt : hostHalted s = true) :
    runCycle [.rDrain, .slipEnc q len p] s = .next (withStrobes [] (markRefused .tx q s)) := by
  have hstay : exec .rDrain (withStrobes [.start .tx .slip q] s) =
      .next (withStrobes [.start .tx .slip q] s) := by
    refine congrArg _ (if_neg (Bool.eq_false_iff.1 ?_))
    exact (rxAt_eq_false_iff .drain _).2 (.inr ((hostHalted_eq_true_iff s).1 hhalt))
  have hrefused : Command.Refused (.encode ⟨0#8, len, p⟩) (Cycle.begin s) q
      (withStrobes [.start .tx .slip q] s) := by
    refine .inr (plainStarts_eq_false fun hmay => ?_)
    obtain ⟨_, _, _, _, _, hfault, hview⟩ := hmay
    exact Bool.false_ne_true (((hostHalted_eq_false_iff s).2 ⟨hfault, hview⟩).symm.trans hhalt)
  have hwaited : ∀ p ∈ (Cycle.begin s).waited, blocked p.1 p.2 s = true := fun _ =>
    blocked_of_mem_blockedRequests
  have hcycle : execCycle [.rDrain, Command.plain q (.encode ⟨0#8, len, p⟩)] (Cycle.begin s)
      (withStrobes [.start .tx .slip q] s) =
        .next (markRefused .tx q (withStrobes [.start .tx .slip q] s)) := by
    rw [execCycle_cons_of_next (c := Cycle.begin s) (i := .rDrain) hstay,
      Cycle.after_eq_self (i := .rDrain) (t := withStrobes [.start .tx .slip q] s) rfl nofun hwaited,
      execCycle_cons_refused hrefused hq hwaited]
    exact congrArg Host.Outcome.next
      (clkTimer_of_halted (s := markRefused .tx q (withStrobes [.start .tx .slip q] s)) hhalt)
  have hend := runCycle_of_next (is := [.rDrain, .slipEnc q len p]) hcycle
  exact hend

end

/-- The words of `R_DRAIN` and of a plain encode select those operations (R24, R101). -/
theorem decodeAll_rDrain_slipEnc {c : Params} {q len : Nat} (ty : Byte) (p : List Byte)
    (hq : q < c.nreq) (hlen : len < 2 ^ c.lw) :
    decodeAll c [.rxStep 1#2, .txCommand q 0#1 ty len p] = .ok [.rDrain, .slipEnc q len p] :=
  decodeAll_cons_of_ok rfl (decodeAll_cons_of_ok (pws := [])
    (decode_plain_word (cmd := .encode ⟨ty, len, p⟩) hq hlen) rfl)

/-- Settles O59: posts are an empty cycle's work and their own marks (`step_posts`), grants and the
plain commands beside them are two operations and the cycle's end, and on a fault's edge the start tests
the bits of the cycle's beginning. -/
theorem postsOfOneCycle : Obligations.PostsOfOneCycle := by
  refine ⟨fun s rest q q' cap cap' st _ hq hq' _ hw hw' => ?_,
    fun s rest q q' len len' ty p p' _ hq hq' _ hw hw' => ?_,
    fun s rest pws d q q' len cap ty p st hscript _ hq hq' hlen hcap =>
      ⟨fun hpws hne h h' => ?_, fun hpws h h' => ?_, fun plain hplain hpws h => ?_⟩,
    fun s rest q len ty p _ hq hlen hscript =>
      ⟨fun hmay hat hempty hcount => ?_, fun hhalt => ?_⟩⟩
  · obtain ⟨u, hstep, hrx, _, hplain, hmux⟩ := step_posts (s := s) (rest := rest)
      (cmd := .decode ⟨cap, st⟩) (cmd' := .decode ⟨cap', st⟩) rfl hq hq' hw hw'
    refine ⟨u, hstep, hrx, hplain, fun pws hscript hpws hrun hfree => ?_⟩
    obtain ⟨t, ht, htrx, _, hfaults, hlocks, hghost⟩ := hmux pws hscript hpws hrun hfree
    exact ⟨t, ht, htrx, hfaults, hlocks, hghost⟩
  · obtain ⟨u, hstep, _, htx, hplain, hmux⟩ := step_posts (s := s) (rest := rest)
      (cmd := .encode ⟨ty, len, p⟩) (cmd' := .encode ⟨ty, len', p'⟩) rfl hq hq' hw hw'
    refine ⟨u, hstep, htx, hplain, fun pws hscript hpws hrun hfree => ?_⟩
    obtain ⟨t, ht, _, httx, hfaults, hlocks, hghost⟩ := hmux pws hscript hpws hrun hfree
    exact ⟨t, ht, httx, hfaults, hlocks, hghost⟩
  · subst hpws
    rw [step_cycle hscript
      (decodeAll_cons_of_ok (decode_lockGrant hq d) (decodeAll_cons_of_ok (decode_lockGrant hq' d) rfl))]
    exact runCycle_grant_grant (s := { s with env := { s.env with script := rest } }) hq hne h h'
  · subst hpws
    rw [step_cycle hscript
      (decodeAll_cons_of_ok (decode_lockGrant hq .tx)
        (decodeAll_cons_of_ok (decode_lockGrant hq' .rx) rfl))]
    exact runCycle_grantTx_grantRx (s := { s with env := { s.env with script := rest } }) hq hq' h h'
  · obtain ⟨cmd, rfl, rfl, hw⟩ : ∃ cmd : Command, cmd.dir = d ∧ cmd.word 0#1 q' = plain ∧
        cmd.width < 2 ^ s.cfg.lw := by
      rcases hplain with ⟨rfl, rfl⟩ | ⟨rfl, rfl⟩
      · exact ⟨.encode ⟨ty, len, p⟩, rfl, rfl, hlen⟩
      · exact ⟨.decode ⟨cap, st⟩, rfl, rfl, hcap⟩
    obtain ⟨is, hdecode, his⟩ :=
      decodeAll_pair (decode_lockGrant hq cmd.dir) (decode_plain_word hq' hw) hpws
    rw [step_cycle hscript hdecode]
    exact runCycle_grant_plain (s := { s with env := { s.env with script := rest } }) hq hq' h his
  · exact ⟨_, (step_cycle hscript (decodeAll_rDrain_slipEnc ty p hq hlen)).trans
      (runCycle_fault_slipEnc hq hmay hat hempty hcount),
      rfl, rfl, onLwWires_of_lt hlen, rfl, rfl, rfl, exec_tLead_of_halted rfl⟩
  · exact ⟨_, (step_cycle hscript (decodeAll_rDrain_slipEnc ty p hq hlen)).trans
      (runCycle_halted_slipEnc hq hhalt), rfl, rfl, rfl⟩

end Sys2Proof.Machine
end

section
/-! The outputs just after reset and the operation RESET itself (spec/70_reset_and_hazards.md R265 to
R267, R243). -/

namespace Sys2Proof.Machine

/- As in the tests: side by side these proofs take more threads than the check has memory for. -/
set_option Elab.async false

/-! ### The outputs just after reset (R266) -/

/-- Two counters at zero differ by zero. -/
theorem modSub_zero_zero (w : Nat) : modSub w 0 0 = 0 :=
  modSub_mod w 0 0 le_rfl (Nat.two_pow_pos w)

/-- The queue is empty after reset, and a ring has at least one cell (R8, R266). -/
theorem fullW_resetFor (c : Params) (e : Env) : fullW (State.resetFor c e) = false := by
  have hdepth : 0 ≠ c.depth := (Nat.two_pow_pos c.aw).ne
  have hzero : modSub (c.aw + 1) 0 0 = 0 := modSub_zero_zero _
  simpa [fullW, State.resetFor, IngestRegs.reset, Views.reset, hzero] using hdepth

/-- No packet is closed and none consumed after reset (R266). -/
theorem countR_resetFor (c : Params) (e : Env) : countR (State.resetFor c e) = 0 :=
  modSub_zero_zero c.cw

/-- Settles O7: but for the two differences of pointers and counters, which are zero, each output is the
reset value of one register. -/
theorem outputsAfterReset : Obligations.OutputsAfterReset := by
  intro c e o ho
  subst ho
  exact ⟨fullW_resetFor c e, rfl, rfl, countR_resetFor c e, rfl, rfl, rfl, rfl, rfl, rfl, rfl, rfl, rfl,
    rfl, rfl, rfl, rfl⟩

/-! ### RESET (R265, R267) -/

/-- Settles O8: RESET looks at the reset lines and at the inputs, and `resetBlock` is the reset state of
the next epoch. -/
theorem resetReturnsToTheResetState : Obligations.ResetReturnsToTheResetState := by
  intro s
  exact ⟨fun hidle => if_pos hidle, fun hactive => if_neg hactive, rfl, rfl⟩

end Sys2Proof.Machine
end

section
/-! Fault registers and the halt (spec/60_exceptions.md R236 to R243): what a step can do to the fault
registers and to each domain's copy of the other's, and what a halted domain keeps. -/

namespace Sys2Proof.Machine

/- As in the tests: side by side these proofs take more threads than the check has memory for. -/
set_option Elab.async false

/-! ### The fault registers across a step (R236) -/

/-- The decode engine raises on the one path of R240, and on no other touches a fault register. -/
theorem rxStep_faults_cases (s : State) :
    (rxStep s).faults = s.faults ∨
      s.rx.state = .drain ∧ emptyR s = true ∧ countR s ≠ 0 ∧
        rxStep s = raiseFatal .countNotZeroOnEmpty s := by
  unfold rxStep
  cases hst : s.rx.state with
  | idle => exact .inl rfl
  | drain =>
    rcases drainStep_cases s with ⟨_, _, h⟩ | ⟨he, hc, h⟩ | ⟨_, _, _, h⟩ | ⟨_, _, _, h⟩ |
      ⟨_, _, h⟩ | ⟨_, _, _, h⟩ <;> simp only [h]
    · exact .inl (result_faults _ _ _ _)
    · exact .inr ⟨trivial, he, hc, trivial⟩
    · exact .inl (complete_faults _)
    · exact .inl (noise_faults _)
    · exact .inl rfl
    · exact .inl (deliver_faults _ _)
  | esc =>
    rcases escStep_cases s with ⟨_, h⟩ | ⟨_, h⟩ <;> simp only [h]
    · exact .inl (result_faults _ _ _ _)
    · exact .inl (escByte_faults _ _)

/-- Everything a step but a reset can do to the fault registers: nothing, or one raise (R236). -/
theorem AnyStep.faults_cases {edge : Option State} {s t : State} (h : AnyStep edge False s t) :
    t.faults = s.faults ∨ ∃ c, t.faults = (raiseFatal c s).faults := by
  cases h with
  | push b _ _ => exact .inl rfl
  | reset hno _ => exact hno.elim
  | atomic h =>
    cases h with
    | ingest b _ _ =>
      rcases ingestByte_cases b s with ⟨_, h⟩ | ⟨_, _, h⟩ | ⟨_, _, h⟩ <;> rw [h]
      · exact .inl rfl
      · exact .inr ⟨_, rfl⟩
      · exact .inl rfl
    | ingestFull _ _ => exact .inr ⟨_, rfl⟩
    | timeout d _ _ _ _ => exact .inr ⟨_, rfl⟩
    | tx _ => exact .inl (txStep_faults s)
    | rx _ =>
      exact (rxStep_faults_cases s).imp_right fun ⟨_, _, _, h⟩ => ⟨_, congrArg State.faults h⟩
    | startRx _ _ _ _ _ => exact .inl (startRx_faults _ _ _ _ _)
    | grantRx _ _ _ => exact .inl (startRx_faults _ _ _ _ _)
    | tick waited asked _ =>
      rcases clkTimer_cases waited asked s with ⟨_, h⟩ | ⟨d, _, _, h⟩ | ⟨_, _, _, h⟩ <;> rw [h]
      · exact .inl rfl
      · exact .inr ⟨_, rfl⟩
      · exact .inl rfl
    | _ => exact .inl rfl

/-- What is recorded in `s` stays recorded in `t`, with its first code. -/
def FaultsKept (s t : State) : Prop :=
  (s.faults.wfault = true → t.faults.wfault = true) ∧
    (s.faults.hfault ≠ .none → t.faults.hfault = s.faults.hfault)

theorem FaultsKept.refl (s : State) : FaultsKept s s := ⟨id, fun _ => rfl⟩

theorem FaultsKept.trans {s t u : State} (hst : FaultsKept s t) (htu : FaultsKept t u) :
    FaultsKept s u := by
  obtain ⟨hw, hh⟩ := hst
  obtain ⟨hw', hh'⟩ := htu
  refine ⟨fun h => hw' (hw h), fun h => ?_⟩
  rw [← hh h]
  exact hh' (by rwa [hh h])

/-- A raise overwrites no code (R236). -/
theorem faultsKept_of_raiseFatal {c : FatalCause} {s t : State}
    (h : t.faults = (raiseFatal c s).faults) : FaultsKept s t := by
  rw [raiseFatal_faults] at h
  constructor
  · intro hw
    simp [h, hw]
  · intro hh
    simp [h, hh]

theorem AnyStep.faultsKept {edge : Option State} {s t : State} (h : AnyStep edge False s t) :
    FaultsKept s t := by
  rcases h.faults_cases with h | ⟨c, h⟩
  · rw [FaultsKept, h]
    exact FaultsKept.refl s
  · exact faultsKept_of_raiseFatal h

/-- The fault registers' property runs along the links of a step that shows no reset. -/
theorem faultsKept_of_chain {edge : Option State} {s t : State}
    (h : Relation.ReflTransGen (AnyStep edge False) s t) : FaultsKept s t := by
  induction h with
  | refl => exact FaultsKept.refl s
  | tail _ hlink ih => exact ih.trans hlink.faultsKept

/-! ### What a domain has learned (R241) -/

/-- Everything a step but a reset can do to the copies of the fault registers: nothing, or `SYN_FAULT`
towards one domain. -/
theorem AnyStep.faultViews_cases {edge : Option State} {s t : State}
    (h : AnyStep edge False s t) :
    (t.views.wfaultH = s.views.wfaultH ∨ t.views.wfaultH = s.faults.wfault) ∧
      (t.views.hfaultW = s.views.hfaultW ∨ t.views.hfaultW = (s.faults.hfault != .none)) := by
  have kept {t : State} (h : t.views = s.views) :
      (t.views.wfaultH = s.views.wfaultH ∨ t.views.wfaultH = s.faults.wfault) ∧
        (t.views.hfaultW = s.views.hfaultW ∨ t.views.hfaultW = (s.faults.hfault != .none)) := by
    rw [h]
    exact ⟨.inl rfl, .inl rfl⟩
  cases h with
  | push b _ _ => exact kept rfl
  | reset hno _ => exact hno.elim
  | atomic h =>
    cases h with
    | synFaultHost => exact ⟨.inr rfl, .inl rfl⟩
    | synFaultWrite => exact ⟨.inl rfl, .inr rfl⟩
    | synW2r _ _ _ => exact ⟨.inl rfl, .inl rfl⟩
    | synR2w _ _ => exact ⟨.inl rfl, .inl rfl⟩
    | ingest b _ _ => exact kept (ingestByte_views b s)
    | ingestFull _ _ => exact kept rfl
    | timeout _ _ _ _ _ => exact kept (raiseFatal_views _ s)
    | tx _ => exact kept (txStep_views s)
    | rx _ => exact kept (rxStep_views s)
    | startRx _ _ _ _ _ => exact kept (startRx_views _ _ _ _ _)
    | grantRx _ _ _ => exact kept (startRx_views _ _ _ _ _)
    | tick _ _ _ => exact kept (clkTimer_views _ _ _)
    | _ => exact kept rfl

/-- A domain learns of recorded faults only, and they stay recorded (R236, R241). -/
theorem AnyStep.faultViewInv {edge : Option State} {s t : State} (h : AnyStep edge False s t)
    (hs : FaultViewInv s) : FaultViewInv t := by
  obtain ⟨hw, hh⟩ := h.faultsKept
  obtain ⟨hviewH, hviewW⟩ := h.faultViews_cases
  constructor
  · intro hseen
    rcases hviewH with hv | hv <;> rw [hv] at hseen
    · exact hw (hs.host hseen)
    · exact hw hseen
  · intro hseen
    have hrecorded : s.faults.hfault ≠ .none := by
      rcases hviewW with hv | hv <;> rw [hv] at hseen
      · exact hs.write hseen
      · exact bne_iff_ne.1 hseen
    rwa [hh hrecorded]

/-- Every step of the machine keeps it, a reset among them (R241, R243). -/
theorem faultViewInv_of_step {s t : State} (hs : FaultViewInv s) (h : step s = .next t) :
    FaultViewInv t := by
  refine step_keeps FaultViewInv (fun edge s t hst hs => ?_) s t hs h
  cases hst with
  | atomic h => exact AnyStep.faultViewInv (.atomic h) hs
  | push b hh hf => exact { hs with }
  | reset _ _ => exact faultViewInv_resetFor _ _

/-- An entry that shows no reset is a chain without one, begun on the faults and the copies of the
step. -/
theorem step_chain_of_no_reset {s t : State} (hno : ∀ e ∈ s.env.script.head?, e.resets = false)
    (h : step s = .next t) :
    ∃ edge : Option State, (∀ e ∈ edge, e.faults = s.faults ∧ e.views = s.views) ∧
      Relation.ReflTransGen (AnyStep edge False) s t := by
  obtain ⟨edge, hedge, hchain⟩ := step_anyChain s t h
  have hfalse : (∃ e ∈ s.env.script.head?, e.resets = true) = False :=
    eq_false fun ⟨e, he, hr⟩ => Bool.false_ne_true ((hno e he).symm.trans hr)
  rw [hfalse] at hchain
  exact ⟨edge, hedge, hchain⟩

/-- Settles O57: an operation but RESET, and an entry without one, is a chain of links that each keep the
registers; the outputs read them. -/
theorem faultRegistersAreSticky : Obligations.FaultRegistersAreSticky := by
  refine ⟨fun s t h => ?_, fun s t hs h => faultViewInv_of_step hs h, fun s => ?_⟩
  · change FaultsKept s t
    rcases h with ⟨i, hi, h⟩ | ⟨hno, h⟩
    · exact faultsKept_of_chain
        (exec_anyChain (edge := none) (mayReset := False) i s t (.inl rfl) (fun l hl => hi l hl) h)
    · obtain ⟨edge, _, hchain⟩ := step_chain_of_no_reset hno h
      exact faultsKept_of_chain hchain
  · have hcode : (outputs s).faultCode = faultCode s := rfl
    rw [hcode, faultCode]
    refine ⟨fun h => ?_, fun h => ?_, fun h => ?_, fun h hv => ?_, fun h hv => ?_, rfl⟩
    · rw [h]; rfl
    · rw [h]; rfl
    · rw [h]; rfl
    · simp [h, hv]
    · simp [h, hv]

end Sys2Proof.Machine
end

section
/-! The halt (spec/60_exceptions.md R241, R242): what one operation can do and which domain it belongs to,
that a step of a halted domain does nothing, and that what is halted stays so until a reset. -/

namespace Sys2Proof.Machine

/- As in the tests: side by side these proofs take more threads than the check has memory for. -/
set_option Elab.async false

/-! ### What one operation can do (R15, R104) -/

/-- Everything an operation that starts no command and is no reset can do: nothing, or the one step of
the agent it belongs to; the encode engine may take several (log 9, log 10). -/
inductive Taken (i : Instr) (s : State) : State → Prop where
  | nothing : Taken i s s
  | ingest (b : Byte) : ingestsOf b i → Taken i s (ingestByte b s)
  | push (b : Byte) : i = .push b → writeHalted s = false → Taken i s (noteCounted false (pushByte b s))
  | pop : i = .pop → hostHalted s = false → Taken i s (popByte s)
  | emit (n : Nat) : txReady s = true → Taken i s (txRun n s)
  | decode : hostHalted s = false → Taken i s (rxStep s)
  | timeout (d : Dir) (q : Nat) : blocked d q s = true → hostHalted s = false →
      Taken i s (raiseFatal (timeoutCause d) s)
  | synW2r (iw ic : Nat) : w2rAdmits iw ic s = true → Taken i s { s with
      views := { s.views with
        wptrR := iw % 2 ^ (s.cfg.aw + 1)
        closedR := s.ghost.cseq.getD ic 0 % 2 ^ s.cfg.cw }
      ghost := { s.ghost with iw := iw, ic := ic } }
  | synR2w (ir : Nat) : r2wAdmits ir s = true → Taken i s { s with
      views := { s.views with rptrW := ir % 2 ^ (s.cfg.aw + 1) }
      ghost := { s.ghost with ir := ir } }
  | synFaultHost : Taken i s { s with views := { s.views with wfaultH := s.faults.wfault } }
  | synFaultWrite : Taken i s { s with views := { s.views with hfaultW := s.faults.hfault != .none } }

section
variable {i : Instr} {s t : State}

/-- An operation acts where its condition holds, and else does nothing (log 5). -/
theorem taken_ite {c : Prop} [Decidable c] {u v : State} (hthen : c → Taken i s u)
    (helse : ¬ c → Taken i s v) : Taken i s (if c then u else v) := by
  split
  · exact hthen ‹_›
  · exact helse ‹_›

theorem taken_txStep (h : txReady s = true) : Taken i s (txStep s) := txRun_one h ▸ .emit 1 h

theorem taken_whenTxAt {st : TxState} {act : State → State}
    (hact : s.tx.state = st → act s = txStep s) : Taken i s (whenTxAt st act s) :=
  taken_ite (fun h => by
    obtain ⟨hst, hready⟩ := Bool.and_eq_true_iff.1 h
    exact hact (beq_iff_eq.1 hst) ▸ taken_txStep hready) fun _ => .nothing

theorem taken_stuffClass (b : Byte) : Taken i s (stuffClass b s) :=
  taken_ite (fun h => by
    obtain ⟨hready, hb⟩ := Bool.and_eq_true_iff.1 h
    exact txRun_length_esc hready (beq_iff_eq.1 hb) ▸ .emit _ hready) fun _ => .nothing

theorem taken_popClass (st : RxState) (b : Byte) : Taken i s (popClass st b s) :=
  taken_ite (fun h => by
    simp only [Bool.and_eq_true, and_assoc] at h
    obtain ⟨hat, _⟩ := h
    exact .decode (rxAt_eq hat).2) fun _ => .nothing

theorem taken_drainStep (h : rxAt .drain s = true) : Taken i s (drainStep s) := by
  obtain ⟨hst, hrun⟩ := rxAt_eq h
  exact rxStep_of_drain hst ▸ .decode hrun

theorem taken_escStep (h : rxAt .esc s = true) : Taken i s (escStep s) := by
  obtain ⟨hst, hrun⟩ := rxAt_eq h
  exact rxStep_of_esc hst ▸ .decode hrun

/-- The completion of a frame of a given Type is a step of the decode engine (R201, log 10). -/
theorem taken_completesType (ty : Byte) :
    Taken i s (if rxCompletesType ty s then drainStep s else s) :=
  taken_ite (fun h => by
    simp only [rxCompletesType, Bool.and_eq_true, and_assoc] at h
    obtain ⟨hat, _⟩ := h
    exact taken_drainStep hat) fun _ => .nothing

theorem taken_typeChecksum {d : Dir} {ty : Byte} (h : exec (.typeChecksum d ty) s = .next t) :
    Taken (.typeChecksum d ty) s t := by
  injection h with h; subst h
  refine taken_ite (fun _ => .nothing) fun _ => ?_
  cases d with
  | rx => exact taken_completesType ty
  | tx =>
    refine taken_ite (fun hh => ?_) fun _ => .nothing
    simp only [txHasType, Bool.and_eq_true, and_assoc] at hh
    obtain ⟨hready, _⟩ := hh
    split
    · rename_i hst
      have hstep : txStep s = typeStep s := by rw [txStep, hst]
      exact hstep ▸ taken_txStep hready
    · rename_i hst
      rw [stuffWhole_stuffWhole_of_clo hst, ← txRun_escapedChecksum hready hst]
      exact .emit _ hready
    · exact .nothing

theorem taken_typePlain {d : Dir} {ty : Byte} (h : exec (.typePlain d ty) s = .next t) :
    Taken (.typePlain d ty) s t := by
  injection h with h; subst h
  refine taken_ite (fun _ => .nothing) fun _ => ?_
  cases d with
  | rx => exact taken_completesType ty
  | tx =>
    exact taken_ite (fun _ => taken_whenTxAt fun hst => by rw [txStep, hst]) fun _ => .nothing

theorem taken_lockRelease {d : Dir} (h : exec (.lockRelease d) s = .next t) :
    Taken (.lockRelease d) s t := by
  injection h with h; subst h
  cases d with
  | tx => exact taken_ite (fun _ => taken_whenTxAt fun hst => by rw [txStep, hst]) fun _ => .nothing
  | rx =>
    refine taken_ite (fun hh => ?_) fun _ => .nothing
    simp only [Bool.and_eq_true, Bool.not_eq_true', and_assoc] at hh
    obtain ⟨hrun, _⟩ := hh
    exact .decode hrun

/-- Everything a SLIPMUX post can do (R217): nothing after a fault, and on a slot that may be posted on
what it posts. -/
theorem post_cases {q : Nat} {busy : Bool} {why : Refusal} {u : State}
    (h : withSlot q s (if hostHalted s then .next s else if busy then .refused why else .next u) =
      .next t) :
    q < s.cfg.nreq ∧ (t = s ∨ hostHalted s = false ∧ busy = false ∧ t = u) := by
  obtain ⟨hq, h⟩ := withSlot_eq_next.1 h
  refine ⟨hq, ?_⟩
  split at h
  · injection h with h; exact .inl h.symm
  · rename_i hhalt
    split at h
    · cases h
    · rename_i hbusy
      injection h with h
      exact .inr ⟨Bool.eq_false_iff.2 hhalt, Bool.eq_false_iff.2 hbusy, h.symm⟩

/-- The steps of an operation that starts no command and is no reset, row by row of the table. -/
theorem exec_taken (hstart : startsCommand i = false) (hreset : ∀ l, i ≠ .reset l)
    (h : exec i s = .next t) : Taken i s t := by
  cases i with
  | slipEnc _ _ _ | smxEnc _ _ _ _ | slipDec _ _ | smxDec _ _ _ | lockGrant _ _ => cases hstart
  | reset lines => exact absurd rfl (hreset lines)
  | typeChecksum d ty => exact taken_typeChecksum h
  | typePlain d ty => exact taken_typePlain h
  | lockRelease d => exact taken_lockRelease h
  | lockTimeout d q =>
    obtain ⟨_, h⟩ := withSlot_eq_next.1 h
    injection h with h; subst h
    refine taken_ite (fun hh => ?_) fun _ => .nothing
    simp only [Bool.and_eq_true, Bool.not_eq_true'] at hh
    obtain ⟨hblocked, hrun⟩ := hh
    exact .timeout d q hblocked hrun
  | ingest b => injection h with h; exact h ▸ .ingest b (.inl rfl)
  | ingestTerminator => injection h with h; exact h ▸ .ingest terminator (.inr (.inl ⟨rfl, rfl⟩))
  | ingestOther b =>
    injection h with h
    exact h ▸ taken_ite (fun _ => .nothing) fun hb => .ingest b (.inr (.inr ⟨hb, rfl⟩))
  | drainTerminator | drainEscape | escEscapedTerminator | escEscapedEscape =>
    injection h with h; exact h ▸ taken_popClass _ _
  | drainOther b | escOther b =>
    injection h with h; exact h ▸ taken_ite (fun _ => .nothing) fun _ => taken_popClass _ _
  | stuffTerminator | stuffEscape => injection h with h; exact h ▸ taken_stuffClass _
  | stuffOther b =>
    injection h with h; exact h ▸ taken_ite (fun _ => .nothing) fun _ => taken_stuffClass _
  | typeRaw ty =>
    injection h with h
    exact h ▸ taken_ite (fun _ => taken_whenTxAt fun hst => by rw [txStep, hst]) fun _ => .nothing
  | tLead | tType | tPay | tPay2 | tClo | tClo2 | tChi | tChi2 | tTrail =>
    injection h with h; exact h ▸ taken_whenTxAt fun hst => by rw [txStep, hst]
  | rDrain => injection h with h; exact h ▸ taken_ite taken_drainStep fun _ => .nothing
  | rEsc => injection h with h; exact h ▸ taken_ite taken_escStep fun _ => .nothing
  | push b =>
    injection h with h; subst h
    refine taken_ite (fun _ => .nothing) fun hfree => .push b rfl ?_
    exact Bool.eq_false_iff.2 fun hhalt => hfree (Bool.or_eq_true_iff.2 (.inl hhalt))
  | pop =>
    injection h with h; subst h
    refine taken_ite (fun _ => .nothing) fun hfree => .pop rfl ?_
    exact Bool.eq_false_iff.2 fun hhalt => hfree (by simp [hhalt])
  | synW2r iw ic => injection h with h; exact h ▸ taken_ite (.synW2r iw ic) fun _ => .nothing
  | synR2w ir => injection h with h; exact h ▸ taken_ite (.synR2w ir) fun _ => .nothing
  | synFault target =>
    injection h with h; subst h
    cases target with
    | host => exact .synFaultHost
    | write => exact .synFaultWrite

end

/-! ### What a domain's agents leave of the other's (R248) -/

theorem hostFrozen_refl (s : State) : hostFrozen s s := ⟨rfl, rfl, rfl, rfl, rfl, rfl, rfl, rfl⟩

theorem hostFrozen.trans {s t u : State} (hst : hostFrozen s t) (htu : hostFrozen t u) :
    hostFrozen s u := by
  obtain ⟨hrx, htx, hlocks, hfault, hsink, hdst, hpop, hgrants⟩ := hst
  obtain ⟨hrx', htx', hlocks', hfault', hsink', hdst', hpop', hgrants'⟩ := htu
  exact ⟨hrx'.trans hrx, htx'.trans htx, hlocks'.trans hlocks, hfault'.trans hfault,
    hsink'.trans hsink, hdst'.trans hdst, hpop'.trans hpop, hgrants'.trans hgrants⟩

theorem writeFrozen_refl (s : State) : writeFrozen s s := ⟨rfl, rfl, rfl⟩

theorem writeFrozen.trans {s t u : State} (hst : writeFrozen s t) (htu : writeFrozen t u) :
    writeFrozen s u := by
  obtain ⟨hw, hfault, hpushed⟩ := hst
  obtain ⟨hw', hfault', hpushed'⟩ := htu
  exact ⟨hw'.trans hw, hfault'.trans hfault, hpushed'.trans hpushed⟩

/-- `INGEST` writes nothing of the host domain (R120, R121). -/
theorem hostFrozen_ingestByte (b : Byte) (s : State) : hostFrozen s (ingestByte b s) := by
  rcases ingestByte_cases b s with ⟨_, h⟩ | ⟨_, _, h⟩ | ⟨_, _, h⟩ <;> rw [h] <;>
    exact hostFrozen_refl _

/-- A host-domain cause leaves `wfault` (R236, R237). -/
theorem raiseFatal_wfault {c : FatalCause} (hc : c ≠ .queueFullOnIngest) (s : State) :
    (raiseFatal c s).faults.wfault = s.faults.wfault := by
  rw [raiseFatal_faults, if_neg hc]

theorem writeFrozen_raiseFatal {c : FatalCause} (hc : c ≠ .queueFullOnIngest) (s : State) :
    writeFrozen s (raiseFatal c s) :=
  ⟨raiseFatal_w c s, raiseFatal_wfault hc s, by rw [raiseFatal_ghost]⟩

theorem timeoutCause_ne_queueFull (d : Dir) : timeoutCause d ≠ .queueFullOnIngest := by
  cases d <;> exact FatalCause.noConfusion

theorem writeFrozen_txStep (s : State) : writeFrozen s (txStep s) :=
  ⟨txStep_w s, congrArg _ (txStep_faults s), congrArg QueuePart.pushTrace (queueOf_txStep s)⟩

theorem writeFrozen_rxStep (s : State) : writeFrozen s (rxStep s) := by
  refine ⟨rxStep_w s, ?_, ?_⟩
  · rcases rxStep_faults_cases s with h | ⟨_, _, _, h⟩ <;> rw [h]
    exact raiseFatal_wfault FatalCause.noConfusion s
  · rcases queueOf_rxStep s with h | ⟨_, h⟩ <;> exact congrArg QueuePart.pushTrace h

theorem writeFrozen_startRx (m : Mode) (q cap : Nat) (st : DecodeState) (s : State) :
    writeFrozen s (startRx m q cap st s) :=
  ⟨startRx_w _ _ _ _ _, congrArg _ (startRx_faults _ _ _ _ _),
    congrArg QueuePart.pushTrace (queueOf_startRx _ _ _ _ _)⟩

theorem writeFrozen_clkTimer (waited asked : List (Dir × Nat)) (s : State) :
    writeFrozen s (clkTimer waited asked s) := by
  rcases clkTimer_cases waited asked s with ⟨_, h⟩ | ⟨d, _, _, h⟩ | ⟨_, _, _, h⟩ <;> rw [h]
  · exact writeFrozen_refl s
  · exact writeFrozen_raiseFatal (timeoutCause_ne_queueFull d) s
  · exact ⟨rfl, rfl, rfl⟩

/-! ### Whose step it was (R15, R20) -/

/-- Everything a step but a reset can do, by the domain it belongs to: the environment, a synchroniser
or a disabled agent; the ingest agent; or, where `mayHost` allows it, an agent of the host domain. -/
inductive DomainStep (mayHost : Prop) (s : State) : State → Prop where
  | neither {t : State} : hostFrozen s t → writeFrozen s t → DomainStep mayHost s t
  | ingest (b : Byte) : DomainStep mayHost s (ingestByte b s)
  | push (b : Byte) : writeHalted s = false → DomainStep mayHost s (noteCounted false (pushByte b s))
  | host {t : State} : mayHost → writeFrozen s t → DomainStep mayHost s t

section
variable {mayHost : Prop} {s t : State}

theorem DomainStep.stay (s : State) : DomainStep mayHost s s :=
  .neither (hostFrozen_refl s) (writeFrozen_refl s)

theorem DomainStep.hostFrozen (h : DomainStep mayHost s t) (hno : ¬ mayHost) : hostFrozen s t := by
  cases h with
  | neither hhost _ => exact hhost
  | ingest b => exact hostFrozen_ingestByte b s
  | push b _ => exact hostFrozen_refl s
  | host hmay _ => exact absurd hmay hno

theorem DomainStep.writeFrozen (h : DomainStep mayHost s t) (hhalt : writeHalted s = true) :
    writeFrozen s t := by
  cases h with
  | neither _ hwrite => exact hwrite
  | ingest b => rw [ingestByte_of_halted hhalt]; exact writeFrozen_refl s
  | push b hrun => exact absurd hhalt (Bool.eq_false_iff.1 hrun)
  | host _ hwrite => exact hwrite

end

section
variable {edge s : State}

/-- Nothing is ready to emit while the host domain is halted (R152, R241). -/
theorem hostHalted_of_txReady (h : txReady s = true) : hostHalted s = false :=
  Bool.eq_false_of_not_eq_true' (Bool.and_eq_true_iff.1 h).2

/-- A plain command that starts found its cycle's beginning not halted (R241, R246). -/
theorem hostHalted_of_plainStarts {d : Dir} (h : plainStarts d (withHostFaultsOf edge s) = true) :
    hostHalted edge = false :=
  Bool.eq_false_of_not_eq_true' (Bool.and_eq_true_iff.1 h).2

/-- A request that is granted found its cycle's beginning not halted (R241, R246). -/
theorem hostHalted_of_grantable {d : Dir} {q : Nat}
    (h : grantable d q (withHostFaultsOf edge s) = true) : hostHalted edge = false :=
  Bool.eq_false_of_not_eq_true' (Bool.and_eq_true_iff.1 h).2

end

/-- The domain of a link: a host-domain one needs the domain not halted, at the cycle's beginning where
it starts a command and now elsewhere (R241, R246). -/
theorem AnyStep.domainStep {edge : Option State} {s t : State} (h : AnyStep edge False s t) :
    DomainStep (hostHalted s = false ∨ hostHalted (edgeState edge s) = false) s t := by
  cases h with
  | push b hrun _ => exact .push b hrun
  | reset hno _ => exact hno.elim
  | atomic h =>
    cases h with
    | ingest b _ _ => exact .ingest b
    | ingestFull hh hf => 
      have h : ingestByte 0#8 s = raiseFatal .queueFullOnIngest s := ingestByte_of_full hh hf
      exact h ▸ .ingest 0#8
    | pop hrun _ _ => exact .host (.inl hrun) ⟨rfl, rfl, rfl⟩
    | tx hready => exact .host (.inl (hostHalted_of_txReady hready)) (writeFrozen_txStep s)
    | rx hrun => exact .host (.inl hrun) (writeFrozen_rxStep s)
    | startTx _ _ _ _ h => exact .host (.inr (hostHalted_of_plainStarts h)) ⟨rfl, rfl, rfl⟩
    | startRx _ _ _ _ h =>
      exact .host (.inr (hostHalted_of_plainStarts h)) (writeFrozen_startRx _ _ _ _ _)
    | postTx _ _ _ _ _ hrun _ => exact .host (.inr hrun) ⟨rfl, rfl, rfl⟩
    | postRx _ _ _ _ hrun _ => exact .host (.inr hrun) ⟨rfl, rfl, rfl⟩
    | grantTx _ _ h => exact .host (.inr (hostHalted_of_grantable h)) ⟨rfl, rfl, rfl⟩
    | grantRx _ _ h =>
      exact .host (.inr (hostHalted_of_grantable h)) (writeFrozen_startRx _ _ _ _ _)
    | timeout d _ _ _ hrun =>
      exact .host (.inl hrun) (writeFrozen_raiseFatal (timeoutCause_ne_queueFull d) s)
    | tick waited asked _ =>
      cases hhalt : hostHalted s with
      | true => rw [clkTimer_of_halted hhalt]; exact .stay s
      | false => exact .host (.inl rfl) (writeFrozen_clkTimer _ _ _)
    | _ => exact .neither ⟨rfl, rfl, rfl, rfl, rfl, rfl, rfl, rfl⟩ ⟨rfl, rfl, rfl⟩

section
variable {s t : State}

/-- The domain of a link outside a cycle. -/
theorem AtomicStep.domainStep (h : AtomicStep none s t) : DomainStep (hostHalted s = false) s t := by
  have hlink := AnyStep.domainStep (.atomic h)
  rwa [edgeState_none, or_self] at hlink

/-- The domain of a post or a grant: the operation is one link, or nothing where it is halted. -/
theorem domainStep_of_start {i : Instr} (hi : startsCommand i = true) (h : exec i s = .next t) :
    DomainStep (hostHalted s = false) s t := by
  cases i <;> simp only [startsCommand, Bool.false_eq_true] at hi
  case slipEnc q len p =>
    obtain ⟨hq, h⟩ := withSlot_eq_next.1 h
    injection h with h; subst h
    split
    · exact AtomicStep.domainStep (.startTx s q len p hq ‹_›)
    · exact AtomicStep.domainStep (.refuse s .tx q hq)
  case smxEnc q ty len p =>
    obtain ⟨_, rfl | ⟨hrun, _, rfl⟩⟩ := post_cases h
    · exact .stay t
    · exact .host hrun ⟨rfl, rfl, rfl⟩
  case slipDec q cap =>
    obtain ⟨hq, h⟩ := withSlot_eq_next.1 h
    injection h with h; subst h
    split
    · exact AtomicStep.domainStep (.startRx s q cap _ hq ‹_›)
    · exact AtomicStep.domainStep (.refuse s .rx q hq)
  case smxDec q cap st =>
    obtain ⟨_, rfl | ⟨hrun, _, rfl⟩⟩ := post_cases h
    · exact .stay t
    · exact .host hrun ⟨rfl, rfl, rfl⟩
  case lockGrant d q =>
    obtain ⟨hq, h⟩ := withSlot_eq_next.1 h
    injection h with h; subst h
    split
    · cases d with
      | tx => exact AtomicStep.domainStep (.grantTx s q hq ‹_›)
      | rx => exact AtomicStep.domainStep (.grantRx s q hq ‹_›)
    · exact .stay s

theorem writeFrozen_txRun (n : Nat) (s : State) : writeFrozen s (txRun n s) := by
  induction n generalizing s with
  | zero => exact writeFrozen_refl s
  | succ n ih =>
    refine writeFrozen.trans ?_ (ih _)
    split
    · exact writeFrozen_txStep s
    · exact writeFrozen_refl s

/-- The domain of every operation but RESET. -/
theorem exec_domainStep {i : Instr} (hi : ∀ l, i ≠ .reset l) (h : exec i s = .next t) :
    DomainStep (hostHalted s = false) s t := by
  cases hstart : startsCommand i with
  | true => exact domainStep_of_start hstart h
  | false =>
    cases exec_taken hstart hi h with
    | nothing => exact .stay s
    | ingest b _ => exact .ingest b
    | push b _ hrun => exact .push b hrun
    | pop _ hrun => exact .host hrun ⟨rfl, rfl, rfl⟩
    | emit n hready => exact .host (hostHalted_of_txReady hready) (writeFrozen_txRun n s)
    | decode hrun => exact .host hrun (writeFrozen_rxStep s)
    | timeout d q _ hrun => exact .host hrun (writeFrozen_raiseFatal (timeoutCause_ne_queueFull d) s)
    | synW2r iw ic ha => exact AtomicStep.domainStep (.synW2r s iw ic ha)
    | synR2w ir ha => exact AtomicStep.domainStep (.synR2w s ir ha)
    | synFaultHost => exact AtomicStep.domainStep (.synFaultHost s)
    | synFaultWrite => exact AtomicStep.domainStep (.synFaultWrite s)

end

/-! ### A halt lasts (R241) -/

section
variable {edge : Option State} {s t : State}

/-- The host domain stays halted: its own fault is sticky, and a learned one is recorded. -/
theorem AnyStep.hostHalted (h : AnyStep edge False s t) (hs : FaultViewInv s)
    (hhalt : hostHalted s = true) : hostHalted t = true := by
  obtain ⟨_, hcode⟩ := h.faultsKept
  obtain ⟨hview, _⟩ := h.faultViews_cases
  rw [hostHalted_eq_true_iff] at hhalt ⊢
  refine hhalt.imp (fun hfault => by rwa [hcode hfault]) fun hseen => ?_
  rcases hview with hv | hv <;> rw [hv]
  · exact hseen
  · exact hs.host hseen

/-- The write domain stays halted likewise. -/
theorem AnyStep.writeHalted (h : AnyStep edge False s t) (hs : FaultViewInv s)
    (hhalt : writeHalted s = true) : writeHalted t = true := by
  obtain ⟨hfault, _⟩ := h.faultsKept
  obtain ⟨_, hview⟩ := h.faultViews_cases
  rw [writeHalted_eq_true_iff] at hhalt ⊢
  refine hhalt.imp hfault fun hseen => ?_
  rcases hview with hv | hv <;> rw [hv]
  · exact hseen
  · exact bne_iff_ne.2 (hs.write hseen)

/-- Along a chain without a reset the halted host domain stays halted and writes nothing. -/
theorem hostFrozen_of_chain (hedge : Machine.hostHalted (edgeState edge s) = true)
    (hs : FaultViewInv s) (hhalt : Machine.hostHalted s = true)
    (h : Relation.ReflTransGen (AnyStep edge False) s t) : hostFrozen s t := by
  suffices hostFrozen s t ∧ Machine.hostHalted t = true ∧ FaultViewInv t from this.1
  induction h with
  | refl => exact ⟨hostFrozen_refl s, hhalt, hs⟩
  | @tail u v _ hlink ih =>
    obtain ⟨hfrozen, hu, hinv⟩ := ih
    have hedge' : Machine.hostHalted (edgeState edge u) = true := by
      cases edge with
      | none => exact hu
      | some e => exact hedge
    have hno : ¬ (Machine.hostHalted u = false ∨ Machine.hostHalted (edgeState edge u) = false) := by
      simp [hu, hedge']
    exact ⟨hfrozen.trans (hlink.domainStep.hostFrozen hno), hlink.hostHalted hinv hu,
      hlink.faultViewInv hinv⟩

/-- Along a chain without a reset the halted write domain stays halted and writes nothing. -/
theorem writeFrozen_of_chain (hs : FaultViewInv s) (hhalt : Machine.writeHalted s = true)
    (h : Relation.ReflTransGen (AnyStep edge False) s t) : writeFrozen s t := by
  suffices writeFrozen s t ∧ Machine.writeHalted t = true ∧ FaultViewInv t from this.1
  induction h with
  | refl => exact ⟨writeFrozen_refl s, hhalt, hs⟩
  | tail _ hlink ih =>
    obtain ⟨hfrozen, hu, hinv⟩ := ih
    exact ⟨hfrozen.trans (hlink.domainStep.writeFrozen hu), hlink.writeHalted hinv hu,
      hlink.faultViewInv hinv⟩

end

/-- Settles O56: an operation belongs to one domain and does nothing where that is halted; an entry is a
chain of links along which the halt lasts. -/
theorem haltedDomainsAreFrozen : Obligations.HaltedDomainsAreFrozen := by
  refine ⟨fun s t h => ?_, fun s t h => ?_⟩
  · have hhalt : hostHalted s = true := (hostHalted_eq_true_iff s).2 h
    refine ⟨fun i hi hexec => ?_, fun hs hno hstep => ?_⟩
    · exact (exec_domainStep hi hexec).hostFrozen (by simp [hhalt])
    · obtain ⟨edge, hedge, hchain⟩ := step_chain_of_no_reset hno hstep
      refine hostFrozen_of_chain ?_ hs hhalt hchain
      cases edge with
      | none => exact hhalt
      | some e =>
        obtain ⟨hfaults, hviews⟩ := hedge e rfl
        rwa [edgeState_some, hostHalted, hfaults, hviews]
  · have hhalt : writeHalted s = true := (writeHalted_eq_true_iff s).2 h
    refine ⟨fun i hi hexec => (exec_domainStep hi hexec).writeFrozen hhalt, fun hs hno hstep => ?_⟩
    obtain ⟨edge, _, hchain⟩ := step_chain_of_no_reset hno hstep
    exact writeFrozen_of_chain hs hhalt hchain

end Sys2Proof.Machine
end

section
/-! The wire of clean traffic (spec/60_exceptions.md R256; spec/30_encoding.md R92, R93): where its
terminators and escapes stand, and what lies behind a packet's end. -/

namespace Sys2Proof.Machine

/- As in the tests: side by side these proofs take more threads than the check has memory for. -/
set_option Elab.async false

/-! ### A frame and what it encloses (R92, R93) -/

/-- What a packet's frame encloses between its two terminators. -/
def Packet.inner (c : Params) (p : Packet) : List Byte :=
  match p.mode with
  | .slip => escAll p.payload
  | .slipmux => p.type :: escAll (smxBody c p.type p.payload)

theorem Packet.frame_eq (c : Params) (p : Packet) :
    p.frame c = terminator :: (p.inner c ++ [terminator]) := by
  unfold Packet.frame Packet.inner
  cases p.mode with
  | slip => rfl
  | slipmux => exact smxFrame_eq_cons c p.type p.payload

/-- No escape sequence ends with its introducer (R140). -/
theorem getLast?_esc_ne_escape (b : Byte) : (esc b).getLast? ≠ some escape := by
  by_cases ht : b = terminator
  · rw [ht]; decide
  · by_cases he : b = escape
    · rw [he]; decide
    · rw [esc_of_ne ht he]
      simpa using he

/-- Nor does an escaped stream (R140, R142). -/
theorem getLast?_escAll_ne_escape (p : List Byte) : (escAll p).getLast? ≠ some escape := by
  induction p with
  | nil => exact nofun
  | cons b p ih =>
    rw [escAll_cons, List.getLast?_append]
    cases hlast : (escAll p).getLast? with
    | none => exact getLast?_esc_ne_escape b
    | some x => exact fun h => ih (hlast.trans h)

theorem escAll_ne_nil {p : List Byte} (hp : p ≠ []) : escAll p ≠ [] := fun h =>
  hp (escAll_injective (h.trans escAll_nil.symm))

/-- A clean SLIPMUX packet has a payload, and a Type that is neither a frame boundary nor an escape
introducer. -/
theorem Packet.clean_slipmux_iff {p : Packet} (hm : p.mode = .slipmux) :
    p.clean = true ↔ p.payload ≠ [] ∧ p.type ≠ terminator ∧ p.type ≠ escape := by
  simp [Packet.clean, hm, and_assoc]

/-- A clean frame holds no terminator but its two (R92, R93, R256). -/
theorem Packet.terminator_notMem_inner {p : Packet} (hp : p.clean = true) (c : Params) :
    terminator ∉ p.inner c := by
  unfold Packet.inner
  cases hm : p.mode with
  | slip => exact terminator_notMem_escAll _
  | slipmux =>
    obtain ⟨_, htype, _⟩ := (Packet.clean_slipmux_iff hm).1 hp
    rw [List.mem_cons, not_or]
    exact ⟨htype.symm, terminator_notMem_escAll _⟩

/-- A clean frame's closing terminator follows no escape introducer. -/
theorem Packet.getLast?_inner_ne_escape {p : Packet} (hp : p.clean = true) (c : Params) :
    (p.inner c).getLast? ≠ some escape := by
  unfold Packet.inner
  cases hm : p.mode with
  | slip => exact getLast?_escAll_ne_escape _
  | slipmux =>
    obtain ⟨_, _, htype⟩ := (Packet.clean_slipmux_iff hm).1 hp
    dsimp only
    rw [List.getLast?_cons]
    cases hlast : (escAll (smxBody c p.type p.payload)).getLast? with
    | none => simpa using htype
    | some x => exact fun h => getLast?_escAll_ne_escape _ (hlast.trans h)

/-! ### Escapes on the wire (R140, R141) -/

/-- No terminator directly follows an escape introducer. -/
def EscapesFollowed (w : List Byte) : Prop := w.IsChain fun a b => a = escape → b ≠ terminator

theorem escapesFollowed_of_notMem {w : List Byte} (h : terminator ∉ w) : EscapesFollowed w := by
  induction w with
  | nil => exact List.isChain_nil
  | cons a w ih =>
    rw [List.mem_cons, not_or] at h
    refine List.isChain_cons.2 ⟨fun y hy _ heq => ?_, ih h.2⟩
    exact h.2 (heq ▸ List.mem_of_mem_head? hy)

/-- Streams with the property join where the first does not end with an escape introducer. -/
theorem EscapesFollowed.append {w w' : List Byte} (h : EscapesFollowed w) (h' : EscapesFollowed w')
    (hlast : w.getLast? ≠ some escape) : EscapesFollowed (w ++ w') :=
  List.isChain_append.2 ⟨h, h', fun _ hx _ _ heq => absurd (heq ▸ hx) hlast⟩

theorem Packet.escapesFollowed_frame {p : Packet} (hp : p.clean = true) (c : Params) :
    EscapesFollowed (p.frame c) := by
  rw [Packet.frame_eq, ← List.singleton_append]
  refine EscapesFollowed.append (List.isChain_singleton _) ?_ (by decide)
  exact (escapesFollowed_of_notMem (p.terminator_notMem_inner hp c)).append (List.isChain_singleton _)
    (p.getLast?_inner_ne_escape hp c)

/-- The wire bytes of packets. -/
def wireOf (c : Params) (ps : List Packet) : List Byte := ps.flatMap (Packet.frame c)

theorem wireOf_cons (c : Params) (p : Packet) (ps : List Packet) :
    wireOf c (p :: ps) = terminator :: (p.inner c ++ terminator :: wireOf c ps) := by
  rw [wireOf, List.flatMap_cons, Packet.frame_eq]
  simp [wireOf]

theorem escapesFollowed_wireOf {ps : List Packet} (hps : ∀ p ∈ ps, p.clean = true) (c : Params) :
    EscapesFollowed (wireOf c ps) := by
  induction ps with
  | nil => exact List.isChain_nil
  | cons p ps ih =>
    rw [List.forall_mem_cons] at hps
    refine (p.escapesFollowed_frame hps.1 c).append (ih hps.2) ?_
    rw [Packet.frame_eq, ← List.cons_append, List.getLast?_concat]
    decide

/-! ### Where a packet ends (R122) -/

/-- The stream is empty or ends with a terminator that closes a run of other bytes: the end of a packet
that is not empty. -/
def EndsPacket (w : List Byte) : Prop := w = [] ∨ ∃ k x, w = k ++ [x, terminator] ∧ x ≠ terminator

/-- A stream that ends a packet behind a whole frame ends one behind it, or right with it. -/
theorem EndsPacket.of_frame_append {c : Params} {p : Packet} {v : List Byte}
    (h : EndsPacket (p.frame c ++ v)) : EndsPacket v := by
  rw [Packet.frame_eq] at h
  rcases h with h | ⟨k, x, h, hx⟩
  · cases h
  · have hrev := congrArg List.reverse h
    rcases v.eq_nil_or_concat' with rfl | ⟨v', y, rfl⟩
    · exact .inl rfl
    rcases v'.eq_nil_or_concat' with rfl | ⟨v'', z, rfl⟩
    · simp only [List.nil_append, List.reverse_append, List.reverse_cons, List.reverse_nil,
        List.cons_append, List.append_assoc, List.cons.injEq] at hrev
      obtain ⟨_, hx', _⟩ := hrev
      exact absurd hx'.symm hx
    · simp only [List.reverse_append, List.reverse_cons, List.reverse_nil, List.nil_append,
        List.cons_append, List.append_assoc, List.cons.injEq] at hrev
      obtain ⟨rfl, rfl, _⟩ := hrev
      exact .inr ⟨v'', z, List.append_assoc _ _ _, hx⟩

/-- No packet ends inside a clean frame. -/
theorem not_endsPacket_inside {c : Params} {p : Packet} (hp : p.clean = true) {k v : List Byte}
    {x b : Byte} (hx : x ≠ terminator) : p.frame c ≠ k ++ [x, terminator] ++ (v ++ [b]) := by
  intro h
  have h : terminator :: p.inner c = k ++ [x, terminator] ++ v :=
    (List.append_inj' (s₁ := terminator :: p.inner c) (t₁ := [terminator]) (t₂ := [b])
      (by rw [List.append_assoc, ← h, Packet.frame_eq]; rfl) rfl).1
  cases k with
  | nil => exact hx (List.cons.inj h).1.symm
  | cons a k =>
    refine p.terminator_notMem_inner hp c ?_
    rw [(List.cons.inj h).2]
    simp

/-- Behind a packet's end lie whole frames: those of the packets not read (R256). -/
theorem wireOf_unread {c : Params} {ps : List Packet} (hps : ∀ p ∈ ps, p.clean = true)
    {w rest : List Byte} (hw : wireOf c ps = w ++ rest) (hend : EndsPacket w) :
    wireOf c (unread c ps w.length) = rest := by
  induction ps generalizing w with
  | nil =>
    have hnil : w ++ rest = [] := hw.symm
    rw [(List.append_eq_nil_iff.1 hnil).2]
    rfl
  | cons p ps ih =>
    rw [List.forall_mem_cons] at hps
    have hframe : wireOf c (p :: ps) = p.frame c ++ wireOf c ps := rfl
    rw [unread]
    split
    · rename_i hlen
      obtain ⟨v, rfl⟩ : p.frame c <+: w :=
        List.prefix_of_prefix_length_le ⟨_, hframe.symm⟩ ⟨rest, hw.symm⟩ hlen
      rw [List.length_append, Nat.add_sub_cancel_left]
      rw [hframe, List.append_assoc, List.append_cancel_left_eq] at hw
      exact ih hps.2 hw hend.of_frame_append
    · rename_i hlen
      rcases hend with rfl | ⟨k, x, rfl, hx⟩
      · exact hw
      · obtain ⟨v, hv⟩ : k ++ [x, terminator] <+: p.frame c :=
          List.prefix_of_prefix_length_le ⟨rest, hw.symm⟩ ⟨_, hframe.symm⟩ (Nat.le_of_not_le hlen)
        rcases v.eq_nil_or_concat' with rfl | ⟨v', b, rfl⟩
        · exact absurd (by rw [← hv, List.append_nil]) hlen
        · exact absurd hv.symm (not_endsPacket_inside hps.1 hx)

/-! ### What a SLIPMUX decode meets (R199, R200) -/

/-- Behind noise the stream goes on with a Type that is no escape introducer and with a byte that does
not end the frame, if it goes on at all. -/
def TypeAhead (w : List Byte) : Prop :=
  ∀ t l, w.dropWhile (· == terminator) = t :: l → t ≠ escape ∧ l.head? ≠ some terminator

theorem typeAhead_terminator_cons {w : List Byte} : TypeAhead (terminator :: w) ↔ TypeAhead w := by
  simp [TypeAhead]

theorem typeAhead_cons_of_ne {b : Byte} (hb : b ≠ terminator) (w : List Byte) :
    TypeAhead (b :: w) ↔ b ≠ escape ∧ w.head? ≠ some terminator := by
  have hdrop : (b :: w).dropWhile (· == terminator) = b :: w := by simp [hb]
  rw [TypeAhead, hdrop]
  exact ⟨fun h => h b w rfl, fun h t l e => by obtain ⟨rfl, rfl⟩ := List.cons.inj e; exact h⟩

/-- A frame with a Type shows it behind its leading terminator. -/
theorem typeAhead_of_slipmux {c : Params} {p : Packet} (hp : p.clean = true)
    (hm : p.mode = .slipmux) (ps : List Packet) : TypeAhead (wireOf c (p :: ps)) := by
  obtain ⟨hpayload, htype, htype'⟩ := (Packet.clean_slipmux_iff hm).1 hp
  have hbody : escAll (smxBody c p.type p.payload) ≠ [] :=
    escAll_ne_nil (List.append_ne_nil_of_left_ne_nil hpayload _)
  rw [wireOf_cons, typeAhead_terminator_cons, Packet.inner, hm, List.cons_append,
    typeAhead_cons_of_ne htype, List.head?_append_of_ne_nil _ hbody]
  exact ⟨htype', fun h => terminator_notMem_escAll _ (List.mem_of_mem_head? h)⟩

/-- Where the next packet that is not empty is a SLIPMUX one, or there is none, its Type is ahead: empty
packets are noise (R256). -/
theorem typeAhead_wireOf {c : Params} {ps : List Packet} (hps : ∀ p ∈ ps, p.clean = true)
    (hnext : ∀ p ∈ ps.find? fun p => !p.payload.isEmpty, p.mode = .slipmux) :
    TypeAhead (wireOf c ps) := by
  induction ps with
  | nil => exact nofun
  | cons p ps ih =>
    rw [List.forall_mem_cons] at hps
    by_cases hpayload : p.payload = []
    · have hslip : p.mode = .slip := by
        cases hm : p.mode with
        | slip => rfl
        | slipmux => exact absurd hpayload ((Packet.clean_slipmux_iff hm).1 hps.1).1
      rw [wireOf_cons, Packet.inner, hslip, hpayload]
      refine typeAhead_terminator_cons.2 (typeAhead_terminator_cons.2 (ih hps.2 ?_))
      simpa [hpayload] using hnext
    · refine typeAhead_of_slipmux hps.1 (hnext p ?_) ps
      simp [hpayload]

theorem mem_of_mem_unread {c : Params} {ps : List Packet} {n : Nat} {p : Packet}
    (h : p ∈ unread c ps n) : p ∈ ps := by
  induction ps generalizing n with
  | nil => exact h
  | cons p' ps ih =>
    rw [unread] at h
    split at h
    · exact List.mem_cons_of_mem _ (ih h)
    · exact h

end Sys2Proof.Machine
end

section
/-! The decode engine over clean traffic (spec/60_exceptions.md R256): between calls the bytes popped end
with a packet and are counted by `consumed`; within a call a counted terminator is still ahead, and the
engine reaches it with a byte stored. -/

namespace Sys2Proof.Machine

/- As in the tests: side by side these proofs take more threads than the check has memory for. -/
set_option Elab.async false

/-! ### The counting law on parts of a stream (R122) -/

theorem countedIn_append (prev : Byte) (xs ys : List Byte) :
    countedIn prev (xs ++ ys) = countedIn prev xs + countedIn (xs.getLastD prev) ys := by
  induction xs generalizing prev with
  | nil => simp [countedIn]
  | cons x xs ih => rw [List.cons_append, countedIn, countedIn, ih, List.getLastD_cons, Nat.add_assoc]

theorem countedIn_le_length (prev : Byte) (xs : List Byte) : countedIn prev xs ≤ xs.length := by
  induction xs generalizing prev with
  | nil => exact le_rfl
  | cons x xs ih =>
    have hone := Bool.toNat_le (x == terminator && prev != terminator)
    have hrest := ih x
    rw [countedIn, List.length_cons]
    omega

section
variable {m n : Nat} {xs : List Byte}

theorem countedIn_take_eq (hmn : m ≤ n) (prev : Byte) :
    ∃ last, countedIn prev (xs.take n) =
      countedIn prev (xs.take m) + countedIn last ((xs.take n).drop m) := by
  refine ⟨(xs.take m).getLastD prev, ?_⟩
  have hsplit := List.take_append_drop m (xs.take n)
  rw [List.take_take, Nat.min_eq_left hmn] at hsplit
  rw [← countedIn_append, hsplit]

theorem countedIn_take_mono (hmn : m ≤ n) (prev : Byte) :
    countedIn prev (xs.take m) ≤ countedIn prev (xs.take n) := by
  obtain ⟨_, h⟩ := countedIn_take_eq (xs := xs) hmn prev
  omega

/-- Between two places of a stream no more is counted than there are bytes. -/
theorem countedIn_take_le (hmn : m ≤ n) (prev : Byte) :
    countedIn prev (xs.take n) ≤ countedIn prev (xs.take m) + (n - m) := by
  obtain ⟨last, h⟩ := countedIn_take_eq (xs := xs) hmn prev
  have hle := countedIn_le_length last ((xs.take n).drop m)
  rw [List.length_drop, List.length_take] at hle
  omega

end

/-! ### Where a call stands (R162 to R168, R199, R200) -/

/-- Where a call over clean traffic stands, by the byte popped last and the bytes ahead. -/
inductive CallAt (last : Byte) (ahead : List Byte) (r : RxRegs) : Prop where
  /-- In noise, before a frame's first byte. -/
  | between : r.state = .drain → last = terminator → r.rcv = 0 →
      (r.mode = .slip ∨ r.first = true ∧ TypeAhead ahead) → CallAt last ahead r
  /-- In a frame: a byte is stored, or the Type has been taken and the frame goes on. -/
  | inside : r.state = .drain → last ≠ terminator → r.first = false →
      (0 < r.rcv ∨ ahead.head? ≠ some terminator) → CallAt last ahead r
  /-- In a frame, within an escape sequence. -/
  | escaped : r.state = .esc → last = escape → r.first = false → CallAt last ahead r

theorem CallAt.ne_idle {last : Byte} {ahead : List Byte} {r : RxRegs} (h : CallAt last ahead r) :
    r.state ≠ .idle := by
  cases h with
  | between hst _ _ _ => simp [hst]
  | inside hst _ _ _ => simp [hst]
  | escaped hst _ _ => simp [hst]

/-- What a delivery leaves of a call's bookkeeping. -/
theorem deliver_cap_consumed (d : Byte) (s : State) :
    (deliver d s).rx.cap = s.rx.cap ∧ (deliver d s).rx.consumed = s.rx.consumed := by
  rcases deliver_cases d s with ⟨_, _, h⟩ | ⟨_, h⟩ <;> rw [h]
  · exact ⟨rfl, rfl⟩
  · rcases store_cases d s with ⟨_, h⟩ | ⟨_, h⟩ <;> rw [h] <;> exact ⟨rfl, rfl⟩

theorem noise_cap_consumed (s : State) :
    (noise s).rx.cap = s.rx.cap ∧ (noise s).rx.consumed = s.rx.consumed := by
  rcases noise_cases s with ⟨_, h⟩ | ⟨_, h⟩ <;> rw [h] <;> exact ⟨rfl, rfl⟩

/-- With no Type awaited a delivery stores, and with a capacity something is then stored (R167, R168). -/
theorem rcv_pos_deliver {s : State} (hs : RxInv s) (hcap : 1 ≤ s.rx.cap)
    (hfirst : s.rx.first = false) (d : Byte) :
    0 < (deliver d s).rx.rcv ∧ (deliver d s).rx.first = false := by
  rcases deliver_cases d s with ⟨_, h, _⟩ | ⟨_, h⟩
  · exact absurd hfirst (by simp [h])
  · rw [h]
    rcases store_cases d s with ⟨hlt, h⟩ | ⟨hle, h⟩ <;> rw [h]
    · have hnext : modAdd s.cfg.lw s.rx.rcv 1 = s.rx.rcv + 1 :=
        Nat.mod_eq_of_lt ((Nat.succ_le_of_lt hlt).trans_lt hs.cap_lt)
      exact ⟨hnext ▸ Nat.succ_pos _, hfirst⟩
    · exact ⟨hcap.trans hle, hfirst⟩

/-- A step of a call that is not at its end: the call goes on with its bookkeeping as it was. -/
structure CallGoesOn (b : Byte) (ahead : List Byte) (s t : State) : Prop where
  callAt : CallAt b ahead t.rx
  cap_eq : t.rx.cap = s.rx.cap
  consumed_eq : t.rx.consumed = s.rx.consumed

section
variable {b last : Byte} {ahead : List Byte} {s : State}

theorem RxInv.first_of_slip (hs : RxInv s) (hm : s.rx.mode = .slip) : s.rx.first = false :=
  (hs.slip_first hm).1

/-- A byte delivered into a frame whose Type, if it has one, is taken (R166 to R168). -/
theorem callGoesOn_deliver (hs : RxInv s) (hcap : 1 ≤ s.rx.cap) (hst : s.rx.state = .drain)
    (hfirst : s.rx.first = false) (hb : b ≠ terminator) :
    CallGoesOn b ahead s (deliver b (popByte s)) where
  callAt := by
    obtain ⟨hpos, hfirst'⟩ := rcv_pos_deliver hs.popByte hcap hfirst b
    exact .inside ((deliver_state b _).trans hst) hb hfirst' (.inl hpos)
  cap_eq := (deliver_cap_consumed b _).1
  consumed_eq := (deliver_cap_consumed b _).2

/-- The follower of an escape introducer is delivered, and it is no terminator (R141, R166). -/
theorem callGoesOn_escByte (hs : RxInv s) (hcap : 1 ≤ s.rx.cap) (hfirst : s.rx.first = false)
    (hb : b ≠ terminator) : CallGoesOn b ahead s (escByte b (popByte s)) where
  callAt := by
    obtain ⟨hpos, hfirst'⟩ := rcv_pos_deliver hs.popByte hcap hfirst (unesc b)
    exact .inside rfl hb hfirst' (.inl hpos)
  cap_eq := (deliver_cap_consumed _ (popByte s)).1
  consumed_eq := (deliver_cap_consumed _ (popByte s)).2

/-- An escape introducer popped (R163). -/
theorem callGoesOn_escape (hfirst : s.rx.first = false) :
    CallGoesOn escape ahead s { popByte s with rx := { (popByte s).rx with state := .esc } } :=
  ⟨.escaped rfl rfl hfirst, rfl, rfl⟩

/-- A terminator popped in noise is noise (R164, R199). -/
theorem callGoesOn_noise (hst : s.rx.state = .drain) (hrcv : s.rx.rcv = 0)
    (hmode : s.rx.mode = .slip ∨ s.rx.first = true ∧ TypeAhead (terminator :: ahead)) :
    CallGoesOn terminator ahead s (noise (popByte s)) := by
  obtain ⟨hcap, hconsumed⟩ := noise_cap_consumed (popByte s)
  refine ⟨?_, hcap, hconsumed⟩
  rcases noise_cases (popByte s) with ⟨hm, h⟩ | ⟨hm, h⟩ <;> rw [h]
  · exact .between hst rfl hrcv (.inl hm)
  · refine .between hst rfl hrcv (.inr ⟨rfl, ?_⟩)
    rcases hmode with hslip | ⟨_, hahead⟩
    · exact absurd (hm.symm.trans hslip) Mode.noConfusion
    · exact typeAhead_terminator_cons.1 hahead

/-- A frame's Type popped (R200). -/
theorem callGoesOn_type (hst : s.rx.state = .drain) (hm : s.rx.mode = .slipmux)
    (hfirst : s.rx.first = true) (hb : b ≠ terminator) (hahead : ahead.head? ≠ some terminator) :
    CallGoesOn b ahead s (deliver b (popByte s)) := by
  obtain ⟨hcap, hconsumed⟩ := deliver_cap_consumed b (popByte s)
  refine ⟨?_, hcap, hconsumed⟩
  rcases deliver_cases b (popByte s) with ⟨_, _, h⟩ | ⟨hno, _⟩
  · rw [h]
    exact .inside hst hb rfl (.inr hahead)
  · rcases hno with hno | hno
    · exact absurd (hm.symm.trans hno) Mode.noConfusion
    · exact absurd (hfirst.symm.trans hno) Bool.noConfusion

/-- A step of a call over clean traffic pops and goes on, or completes at the terminator that closes a run
of other bytes (R162 to R168, R199 to R201). -/
theorem CallAt.rxStep_cases (h : CallAt last (headByte s :: ahead) s.rx) (hs : RxInv s)
    (hcap : 1 ≤ s.rx.cap) (he : emptyR s = false)
    (hesc : last = escape → headByte s ≠ terminator) :
    (CallGoesOn (headByte s) ahead s (rxStep s) ∧ (headByte s = terminator → last = terminator)) ∨
      (rxStep s = complete (popByte s) ∧ headByte s = terminator ∧ last ≠ terminator) := by
  cases h with
  | escaped hst hlast hfirst =>
    rw [rxStep_of_esc hst, escStep_of_not_empty he]
    have hb := hesc hlast
    exact .inl ⟨callGoesOn_escByte hs hcap hfirst hb, fun h => absurd h hb⟩
  | between hst hlast hrcv hmode =>
    refine .inl ⟨?_, fun _ => hlast⟩
    rw [rxStep_of_drain hst]
    rcases drainStep_cases s with ⟨h, _⟩ | ⟨h, _⟩ | ⟨_, _, hpos, _⟩ | ⟨_, hb, _, h⟩ |
      ⟨_, hb, h⟩ | ⟨_, hb, hb', h⟩
    · exact absurd h (Bool.eq_false_iff.1 he)
    · exact absurd h (Bool.eq_false_iff.1 he)
    · exact absurd hrcv hpos.ne'
    · rw [h, hb]
      exact callGoesOn_noise hst hrcv (hb ▸ hmode)
    · rw [h, hb]
      rcases hmode with hm | ⟨_, hahead⟩
      · exact callGoesOn_escape (hs.first_of_slip hm)
      · exact absurd hb ((typeAhead_cons_of_ne (hb ▸ escape_ne_terminator) _).1 hahead).1
    · rw [h]
      rcases hmode with hm | ⟨hfirst, hahead⟩
      · exact callGoesOn_deliver hs hcap hst (hs.first_of_slip hm) hb
      · cases hm : s.rx.mode with
        | slip => exact callGoesOn_deliver hs hcap hst (hs.first_of_slip hm) hb
        | slipmux => exact callGoesOn_type hst hm hfirst hb ((typeAhead_cons_of_ne hb _).1 hahead).2
  | inside hst hlast hfirst hstored =>
    rw [rxStep_of_drain hst]
    rcases drainStep_cases s with ⟨h, _⟩ | ⟨h, _⟩ | ⟨_, hb, _, h⟩ | ⟨_, hb, hrcv, _⟩ |
      ⟨_, hb, h⟩ | ⟨_, hb, _, h⟩
    · exact absurd h (Bool.eq_false_iff.1 he)
    · exact absurd h (Bool.eq_false_iff.1 he)
    · exact .inr ⟨h, hb, hlast⟩
    · rcases hstored with hpos | hahead
      · exact absurd hrcv hpos.ne'
      · exact absurd (congrArg some hb) hahead
    · rw [h, hb]
      exact .inl ⟨callGoesOn_escape hfirst, fun h => absurd h escape_ne_terminator⟩
    · rw [h]
      exact .inl ⟨callGoesOn_deliver hs hcap hst hfirst hb, fun h => absurd h hb⟩

end

end Sys2Proof.Machine
end

section
/-! The decode side's invariant over clean traffic (spec/60_exceptions.md R256; spec/40_framebuffer.md
R123), and that every step of a run keeps it. -/

namespace Sys2Proof.Machine

/- As in the tests: side by side these proofs take more threads than the check has memory for. -/
set_option Elab.async false

/-- The traffic's bytes on the wire. -/
def Traffic.wire (tr : Traffic) (c : Params) : List Byte := wireOf c tr.packets

/-- A running call over the traffic: it can store, a counted terminator it has not popped is visible, and
it stands where the bytes popped leave it. -/
structure InCall (tr : Traffic) (s : State) : Prop where
  cap_pos : 1 ≤ s.rx.cap
  more : countedIn terminator s.ghost.popTrace <
    countedIn terminator (s.ghost.pushTrace.take s.ghost.ic)
  stands : ∃ ahead, tr.wire s.cfg = s.ghost.popTrace ++ ahead ∧
    CallAt (s.ghost.popTrace.getLastD terminator) ahead s.rx

/-- The decode side over the traffic: what is enqueued is the traffic's, `consumed` counts the packets
popped, and between calls the bytes popped end with a packet that the count has seen. -/
structure DecodeInv (tr : Traffic) (s : State) : Prop where
  fed : s.ghost.pushTrace <+: tr.wire s.cfg
  consumed_eq : s.rx.consumed = countedIn terminator s.ghost.popTrace % 2 ^ s.cfg.cw
  rest_ends : s.rx.state = .idle → EndsPacket s.ghost.popTrace
  rest_seen : s.rx.state = .idle → s.ghost.pops ≤ s.ghost.ic
  in_call : s.rx.state ≠ .idle → InCall tr s

/-- The queue's invariants, which every step keeps whatever the traffic. -/
structure StreamInv (s : State) : Prop where
  queue : QueueInv s
  count : CountInv s
  rx : RxInv s

section
variable {tr : Traffic} {s t : State}

/-! ### The queue and the count in a call (R67, R122, R126) -/

/-- The counters tell apart as many packets as the ring has cells (R8). -/
theorem depth_lt_two_pow_cw {c : Params} (hc : c.wf = true) : c.depth < 2 ^ c.cw := by
  simp only [Params.wf, Bool.and_eq_true, decide_eq_true_eq] at hc
  omega

theorem QueueInv.ic_le_pushTrace (hs : QueueInv s) : s.ghost.ic ≤ s.ghost.pushTrace.length := by
  rw [hs.pushTrace_length]
  exact hs.ic_le_iw.trans hs.iw_le_pushes

theorem QueueInv.length_popTrace (hs : QueueInv s) : s.ghost.popTrace.length = s.ghost.pops := by
  have := hs.pops_le_iw
  have := hs.iw_le_pushes
  rw [hs.popTrace_eq, List.length_take, hs.pushTrace_length]
  omega

/-- With a counted terminator ahead that is visible, the bytes popped are fewer than those the count has
seen, so the queue does not look empty. -/
theorem InCall.pops_lt (h : InCall tr s) (hs : QueueInv s) : s.ghost.pops < s.ghost.ic := by
  by_contra hle
  have hmono := countedIn_take_mono (xs := s.ghost.pushTrace) (Nat.le_of_not_lt hle) terminator
  have hmore := h.more
  rw [hs.popTrace_eq] at hmore
  omega

theorem InCall.not_empty (h : InCall tr s) (hs : QueueInv s) : emptyR s = false := by
  have hlt := h.pops_lt hs
  have hic := hs.ic_le_iw
  refine Bool.eq_false_iff.2 fun he => ?_
  have := hs.emptyR_iff.1 he
  omega

/-- The closed count the host domain sees is the counting law up to `ic` (R74, R122). -/
theorem StreamInv.closedR_eq (hs : StreamInv s) : s.views.closedR =
    countedIn terminator (s.ghost.pushTrace.take s.ghost.ic) % 2 ^ s.cfg.cw := by
  have hic := hs.queue.ic_le_pushTrace
  rw [hs.queue.closedR_eq, hs.count.cseq_eq, List.getD_eq_getElem?_getD, List.getElem?_map,
    List.getElem?_range (Nat.lt_succ_of_le hic)]
  rfl

/-- Between calls a count that is not zero means that a counted terminator is visible (R126). -/
theorem DecodeInv.more_of_countR (h : DecodeInv tr s) (hs : StreamInv s) (hidle : s.rx.state = .idle)
    (hcount : countR s ≠ 0) : countedIn terminator s.ghost.popTrace <
      countedIn terminator (s.ghost.pushTrace.take s.ghost.ic) := by
  have hmono := countedIn_take_mono (xs := s.ghost.pushTrace) (h.rest_seen hidle) terminator
  rw [← hs.queue.popTrace_eq] at hmono
  refine lt_of_le_of_ne hmono fun heq => hcount ?_
  exact countR_of_all_consumed hs.closedR_eq (h.consumed_eq.trans (by rw [heq]))

/-- The source's invariant between calls (R123). -/
theorem DecodeInv.countsPackets (h : DecodeInv tr s) (hs : StreamInv s) : countsPackets s := by
  have hpops : s.ghost.pops ≤ s.ghost.pushTrace.length := by
    rw [hs.queue.pushTrace_length]
    exact hs.queue.pops_le_iw.trans hs.queue.iw_le_pushes
  have hmono := countedIn_take_mono (xs := s.ghost.pushTrace) hpops terminator
  have hle := countedIn_take_le (xs := s.ghost.pushTrace) hpops terminator
  rw [List.take_length, hs.queue.pushTrace_length] at hle
  rw [List.take_length] at hmono
  have hroom := hs.queue.room
  have hir := hs.queue.ir_le_pops
  have hdepth := depth_lt_two_pow_cw hs.queue.cfg_wf
  rw [Machine.countsPackets, hs.queue.closed_eq, hs.count.cseq_last, h.consumed_eq,
    hs.queue.popTrace_eq]
  exact modSub_mod _ _ _ hmono (by omega)

/-! ### What leaves the decode side alone -/

/-- The decode side reads the engine's registers and the queue's part of the state. -/
theorem DecodeInv.of_eq (h : DecodeInv tr s) (hrx : t.rx = s.rx) (hqueue : queueOf t = queueOf s) :
    DecodeInv tr t := by
  simp only [queueOf, QueuePart.mk.injEq] at hqueue
  obtain ⟨hcfg, _, _, _, _, _, _, hpops, _, _, hic, _, hpushed, hpopped⟩ := hqueue
  constructor
  case fed => rw [hpushed, hcfg]; exact h.fed
  case consumed_eq => rw [hrx, hpopped, hcfg]; exact h.consumed_eq
  case rest_ends => rw [hrx, hpopped]; exact h.rest_ends
  case rest_seen => rw [hrx, hpops, hic]; exact h.rest_seen
  case in_call =>
    rw [hrx]
    intro hbusy
    obtain ⟨hcap, hmore, hstands⟩ := h.in_call hbusy
    exact ⟨by rw [hrx]; exact hcap, by rw [hpopped, hpushed, hic]; exact hmore,
      by rw [hcfg, hpopped, hrx]; exact hstands⟩

/-- The views move forward, so what the count has seen stays seen (R74). -/
theorem DecodeInv.viewsMove (h : DecodeInv tr s) {ic : Nat} (hic : s.ghost.ic ≤ ic) (iw ir : Nat)
    (views : Views) : DecodeInv tr
      { s with views := views, ghost := { s.ghost with iw := iw, ic := ic, ir := ir } } where
  fed := h.fed
  consumed_eq := h.consumed_eq
  rest_ends := h.rest_ends
  rest_seen hidle := (h.rest_seen hidle).trans hic
  in_call hbusy :=
    { h.in_call hbusy with more := (h.in_call hbusy).more.trans_le (countedIn_take_mono hic _) }

/-- The traffic's next byte is enqueued (R121). -/
theorem DecodeInv.pushCounted (h : DecodeInv tr s) (hs : QueueInv s) {b : Byte}
    (hfed : s.ghost.pushTrace ++ [b] <+: tr.wire s.cfg) (counted : Bool) (last : Byte) :
    DecodeInv tr (pushCounted counted b last s) where
  fed := hfed
  consumed_eq := h.consumed_eq
  rest_ends := h.rest_ends
  rest_seen := h.rest_seen
  in_call hbusy := by
    obtain ⟨hcap, hmore, hstands⟩ := h.in_call hbusy
    refine ⟨hcap, ?_, hstands⟩
    change _ < countedIn terminator ((s.ghost.pushTrace ++ [b]).take s.ghost.ic)
    rw [List.take_append_of_le_length hs.ic_le_pushTrace]
    exact hmore

/-! ### A step of the call (R162 to R168, R199 to R201) -/

/-- The byte at the head is the next of the bytes ahead (R62). -/
theorem InCall.head (h : InCall tr s) (hs : QueueInv s) (hfed : s.ghost.pushTrace <+: tr.wire s.cfg) :
    ∃ ahead, tr.wire s.cfg = s.ghost.popTrace ++ headByte s :: ahead ∧
      CallAt (s.ghost.popTrace.getLastD terminator) (headByte s :: ahead) s.rx := by
  obtain ⟨ahead, hwire, hat⟩ := h.stands
  obtain ⟨later, hlater⟩ := hfed
  have hhead : (tr.wire s.cfg)[s.ghost.pops]? = some (headByte s) := by
    have hpushed := hs.headByte_eq (h.not_empty hs)
    obtain ⟨hlt, _⟩ := List.getElem?_eq_some_iff.1 hpushed
    rw [← hlater, List.getElem?_append_left hlt, hpushed]
  rw [hwire, ← hs.length_popTrace, List.getElem?_append_right le_rfl, Nat.sub_self] at hhead
  cases ahead with
  | nil => cases hhead
  | cons b ahead =>
    obtain rfl : b = headByte s := Option.some.inj hhead
    exact ⟨ahead, hwire, hat⟩

/-- A byte other than a terminator closing a run leaves the count; that one adds to it (R122). -/
theorem countedIn_popTrace_concat (popped : List Byte) (b : Byte) :
    countedIn terminator (popped ++ [b]) = countedIn terminator popped +
      if b = terminator ∧ popped.getLastD terminator ≠ terminator then 1 else 0 := by
  rw [countedIn_concat]
  generalize popped.getLastD terminator = last
  by_cases hb : b = terminator
  · by_cases hlast : last = terminator <;> simp [hb, hlast]
  · simp [hb]

/-- The bytes popped end a packet when a terminator closes a run of other bytes. -/
theorem endsPacket_concat {popped : List Byte} (hlast : popped.getLastD terminator ≠ terminator) :
    EndsPacket (popped ++ [terminator]) := by
  rcases popped.eq_nil_or_concat' with rfl | ⟨k, x, rfl⟩
  · exact absurd rfl hlast
  · refine .inr ⟨k, x, List.append_assoc _ _ _, ?_⟩
    rwa [List.getLastD_concat] at hlast

/-- A terminator does not follow an escape introducer popped last, on the wire of clean traffic. -/
theorem head_ne_terminator_of_escape (hclean : ∀ p ∈ tr.packets, p.clean = true)
    {popped ahead : List Byte} {b : Byte} (hwire : tr.wire s.cfg = popped ++ b :: ahead)
    (hlast : popped.getLastD terminator = escape) : b ≠ terminator := by
  have hchain : EscapesFollowed (popped ++ b :: ahead) :=
    hwire ▸ escapesFollowed_wireOf hclean s.cfg
  rcases popped.eq_nil_or_concat' with rfl | ⟨k, x, rfl⟩
  · exact absurd hlast.symm escape_ne_terminator
  · rw [List.getLastD_concat] at hlast
    obtain ⟨_, _, hjoin⟩ := List.isChain_append.1 hchain
    exact hjoin x (by simp) b rfl hlast

/-- A step of a running call pops where the queue does not look empty (R162, R166). -/
theorem queueOf_rxStep_of_busy (hbusy : s.rx.state ≠ .idle) (he : emptyR s = false) :
    queueOf (rxStep s) = queueOf (popByte s) := by
  cases hst : s.rx.state with
  | idle => exact absurd hst hbusy
  | drain => rw [rxStep_of_drain hst]; exact queueOf_drainStep_of_not_empty he
  | esc => rw [rxStep_of_esc hst]; exact queueOf_escStep_of_not_empty he

section
variable {ahead : List Byte} (hqueue : queueOf t = queueOf (popByte s))
include hqueue

/-- A pop after which the call goes on. -/
theorem DecodeInv.goesOn (h : DecodeInv tr s) (hcall : InCall tr s)
    (hwire : tr.wire s.cfg = s.ghost.popTrace ++ headByte s :: ahead)
    (hon : CallGoesOn (headByte s) ahead s t)
    (hlast : headByte s = terminator → s.ghost.popTrace.getLastD terminator = terminator) :
    DecodeInv tr t := by
  have hcfg : t.cfg = s.cfg := congrArg QueuePart.cfg hqueue
  have hpopped : t.ghost.popTrace = s.ghost.popTrace ++ [headByte s] :=
    congrArg QueuePart.popTrace hqueue
  have hpushed : t.ghost.pushTrace = s.ghost.pushTrace := congrArg QueuePart.pushTrace hqueue
  have hic : t.ghost.ic = s.ghost.ic := congrArg QueuePart.ic hqueue
  have hcount := countedIn_popTrace_concat s.ghost.popTrace (headByte s)
  rw [if_neg fun ⟨hb, hne⟩ => hne (hlast hb), Nat.add_zero] at hcount
  have hbusy := hon.callAt.ne_idle
  exact {
    fed := by rw [hpushed, hcfg]; exact h.fed
    consumed_eq := by rw [hon.consumed_eq, hpopped, hcount, hcfg]; exact h.consumed_eq
    rest_ends := fun hidle => absurd hidle hbusy
    rest_seen := fun hidle => absurd hidle hbusy
    in_call := fun _ => {
      cap_pos := hon.cap_eq ▸ hcall.cap_pos
      more := by rw [hpopped, hcount, hpushed, hic]; exact hcall.more
      stands := by
        refine ⟨ahead, by rw [hcfg, hpopped, hwire, List.append_assoc]; rfl, ?_⟩
        rw [hpopped, List.getLastD_concat]
        exact hon.callAt } }

/-- The pop that completes a packet. -/
theorem DecodeInv.completes (h : DecodeInv tr s) (hlt : s.ghost.pops < s.ghost.ic)
    (hdone : t = complete (popByte s)) (hb : headByte s = terminator)
    (hlast : s.ghost.popTrace.getLastD terminator ≠ terminator) : DecodeInv tr t := by
  have hcfg : t.cfg = s.cfg := congrArg QueuePart.cfg hqueue
  have hpopped : t.ghost.popTrace = s.ghost.popTrace ++ [headByte s] :=
    congrArg QueuePart.popTrace hqueue
  have hpushed : t.ghost.pushTrace = s.ghost.pushTrace := congrArg QueuePart.pushTrace hqueue
  have hic : t.ghost.ic = s.ghost.ic := congrArg QueuePart.ic hqueue
  have hpops : t.ghost.pops = s.ghost.pops + 1 := congrArg QueuePart.pops hqueue
  have hcount := countedIn_popTrace_concat s.ghost.popTrace (headByte s)
  rw [if_pos ⟨hb, hlast⟩] at hcount
  obtain ⟨hidle, hconsumed⟩ : t.rx.state = .idle ∧
      t.rx.consumed = modAdd s.cfg.cw s.rx.consumed 1 := by
    rw [hdone, complete]
    rcases result_cases (completedLength (popByte s)) true false _ with ⟨_, hr⟩ | ⟨_, hr⟩ <;>
      rw [hr] <;> exact ⟨rfl, rfl⟩
  exact {
    fed := by rw [hpushed, hcfg]; exact h.fed
    consumed_eq := by rw [hconsumed, h.consumed_eq, modAdd_mod_one, hpopped, hcount, hcfg]
    rest_ends := fun _ => by rw [hpopped, hb]; exact endsPacket_concat hlast
    rest_seen := fun _ => by rw [hpops, hic]; exact hlt
    in_call := fun hbusy => absurd hidle hbusy }

end

/-- A step of a running call keeps the decode side and raises nothing: the queue does not look empty, so
it pops. -/
theorem DecodeInv.rxStep (h : DecodeInv tr s) (hs : StreamInv s)
    (hclean : ∀ p ∈ tr.packets, p.clean = true) (hbusy : s.rx.state ≠ .idle) :
    DecodeInv tr (rxStep s) ∧ (rxStep s).faults = s.faults := by
  have hcall := h.in_call hbusy
  have he := hcall.not_empty hs.queue
  have hqueue := queueOf_rxStep_of_busy hbusy he
  obtain ⟨ahead, hwire, hat⟩ := hcall.head hs.queue h.fed
  constructor
  · rcases hat.rxStep_cases hs.rx hcall.cap_pos he (head_ne_terminator_of_escape hclean hwire) with
      ⟨hon, hlast⟩ | ⟨hdone, hb, hlast⟩
    · exact h.goesOn hqueue hcall hwire hon hlast
    · exact h.completes hqueue (hcall.pops_lt hs.queue) hdone hb hlast
  · rcases rxStep_faults_cases s with hfaults | ⟨_, hempty, _⟩
    · exact hfaults
    · exact absurd hempty (Bool.eq_false_iff.1 he)

/-! ### The start of a call (R161, R196, R197) -/

theorem EndsPacket.getLastD_eq {w : List Byte} (h : EndsPacket w) : w.getLastD terminator = terminator := by
  rcases h with rfl | ⟨k, x, rfl, _⟩
  · rfl
  · rw [List.append_cons, List.getLastD_concat]

/-- A Type is ahead of a SLIPMUX decode that the traffic allows (R256). -/
theorem DecodeInv.typeAhead (h : DecodeInv tr s) (hs : QueueInv s)
    (hclean : ∀ p ∈ tr.packets, p.clean = true) (hidle : s.rx.state = .idle)
    (hnext : tr.decodesNext .slipmux s = true) {ahead : List Byte}
    (hwire : tr.wire s.cfg = s.ghost.popTrace ++ ahead) : TypeAhead ahead := by
  have hunread := wireOf_unread hclean hwire (h.rest_ends hidle)
  rw [hs.length_popTrace] at hunread
  rw [← hunread]
  refine typeAhead_wireOf (fun p hp => hclean p (mem_of_mem_unread hp)) fun p hp => ?_
  rw [Traffic.decodesNext, Option.mem_def.1 hp] at hnext
  exact beq_iff_eq.1 hnext

section
variable (hqueue : queueOf t = queueOf s) (hconsumed : t.rx.consumed = s.rx.consumed)
include hqueue hconsumed

/-- A call that ends in its own start moves nothing (R197). -/
theorem DecodeInv.stays_idle (h : DecodeInv tr s) (hidle : s.rx.state = .idle)
    (hidle' : t.rx.state = .idle) : DecodeInv tr t := by
  refine DecodeInv.of_eq (s := { s with rx := t.rx }) ?_ rfl (hqueue.trans ?_)
  · exact {
      fed := h.fed
      consumed_eq := hconsumed.trans h.consumed_eq
      rest_ends := fun _ => h.rest_ends hidle
      rest_seen := fun _ => h.rest_seen hidle
      in_call := fun hbusy => absurd hidle' hbusy }
  · have hrptr : t.rx.rptr = s.rx.rptr := congrArg QueuePart.rptr hqueue
    simp [queueOf, hrptr]

/-- A call begins where the bytes popped end a packet, and a counted terminator is ahead. -/
theorem DecodeInv.begins (h : DecodeInv tr s) (hbusy : t.rx.state ≠ .idle) (hcall : InCall tr t) :
    DecodeInv tr t where
  fed := by
    rw [show t.ghost.pushTrace = s.ghost.pushTrace from congrArg QueuePart.pushTrace hqueue,
      show t.cfg = s.cfg from congrArg QueuePart.cfg hqueue]
    exact h.fed
  consumed_eq := by
    rw [hconsumed, show t.ghost.popTrace = s.ghost.popTrace from congrArg QueuePart.popTrace hqueue,
      show t.cfg = s.cfg from congrArg QueuePart.cfg hqueue]
    exact h.consumed_eq
  rest_ends hidle := absurd hidle hbusy
  rest_seen hidle := absurd hidle hbusy
  in_call _ := hcall

end

/-- What a decode the traffic allows is posted with: a capacity that fits its wires, and in a SLIPMUX call
no Type and the traffic's next packet a SLIPMUX one (R256). -/
def FitsTraffic (tr : Traffic) (m : Mode) (cap : Nat) (st : DecodeState) (s : State) : Prop :=
  1 ≤ cap ∧ cap < 2 ^ s.cfg.lw ∧
    (m = .slipmux → st.typeValid = false ∧ tr.decodesNext .slipmux s = true)

/-- A start the traffic allows keeps the decode side: it ends at once, or a counted terminator is
ahead. -/
theorem DecodeInv.startRx (h : DecodeInv tr s) (hs : StreamInv s)
    (hclean : ∀ p ∈ tr.packets, p.clean = true) (hidle : s.rx.state = .idle) {m : Mode} {cap : Nat}
    {st : DecodeState} (q : Nat) (hfits : FitsTraffic tr m cap st s) :
    DecodeInv tr (startRx m q cap st s) := by
  obtain ⟨hcap, hwires, hmux⟩ := hfits
  have hqueue := queueOf_startRx m q cap st s
  by_cases hcount : countR s = 0
  · have hstart : Machine.startRx m q cap st s =
        result 0 false true (pulseGrant .rx q (startRegs m q cap st s)) := if_pos hcount
    rcases result_cases 0 false true (pulseGrant .rx q (startRegs m q cap st s)) with ⟨_, hr⟩ | ⟨_, hr⟩
    · exact h.stays_idle hqueue (by rw [hstart, hr]; rfl) hidle (by rw [hstart, hr])
    · exact h.stays_idle hqueue (by rw [hstart, hr]; rfl) hidle (by rw [hstart, hr])
  · obtain ⟨later, hlater⟩ := h.fed
    have hpopped : tr.wire s.cfg =
        s.ghost.popTrace ++ (s.ghost.pushTrace.drop s.ghost.pops ++ later) := by
      rw [← hlater, hs.queue.popTrace_eq, ← List.append_assoc, List.take_append_drop]
    have hmore := h.more_of_countR hs hidle hcount
    have hlast := (h.rest_ends hidle).getLastD_eq
    have hahead (hm : m = .slipmux) := h.typeAhead hs.queue hclean hidle (hmux hm).2 hpopped
    have hstart : Machine.startRx m q cap st s =
        { pulseGrant .rx q (startRegs m q cap st s) with
          rx := { (pulseGrant .rx q (startRegs m q cap st s)).rx with state := .drain } } :=
      if_neg hcount
    rw [hstart] at hqueue ⊢
    refine h.begins hqueue rfl RxState.noConfusion ⟨?_, hmore, _, hpopped, ?_⟩
    · exact hcap.trans_eq (onLwWires_of_lt hwires).symm
    · refine .between rfl hlast rfl ?_
      cases m with
      | slip => exact .inl rfl
      | slipmux => exact .inr ⟨by simp [startRegs, (hmux rfl).1], hahead rfl⟩

end

end Sys2Proof.Machine
end

section
/-! Runs over clean traffic (spec/60_exceptions.md R256): with one requester per direction no request is
ever blocked, so nothing times out, and the invariant of the whole block holds in every state. -/

namespace Sys2Proof.Machine

/- As in the tests: side by side these proofs take more threads than the check has memory for. -/
set_option Elab.async false

/-! ### The guard with one requester (R217, R218, R221) -/

/-- Only `r` asks in direction `d`, only while it could be granted, and the call is its own. -/
structure GuardInv (d : Dir) (r : Nat) (s : State) : Prop where
  mine : ∀ q, requested d q s = true → q = r
  free : ∀ q, requested d q s = true → unavailable d s = false
  owner : unavailable d s = true → ownerOf d s = r

section
variable {d : Dir} {q r : Nat} {s t : State}

theorem GuardInv.of_eq (h : GuardInv d r s) (hreq : requests d t = requests d s)
    (havail : unavailable d t = unavailable d s) (howner : ownerOf d t = ownerOf d s) :
    GuardInv d r t where
  mine := by simp only [requested, hreq]; exact h.mine
  free := by simp only [requested, hreq, havail]; exact h.free
  owner := by rw [havail, howner]; exact h.owner

theorem guardInv_of_none (hnone : ∀ q, requested d q t = false) (howner : ownerOf d t = r) :
    GuardInv d r t where
  mine q hq := absurd hq (Bool.eq_false_iff.1 (hnone q))
  free q hq := absurd hq (Bool.eq_false_iff.1 (hnone q))
  owner _ := howner

/-- No request is blocked, so none times out. -/
theorem GuardInv.not_blocked (h : GuardInv d r s) (q : Nat) : blocked d q s = false := by
  rw [blocked]
  cases hreq : requested d q s with
  | false => rfl
  | true => exact h.free q hreq

/-- While the direction is not available nobody asks. -/
theorem GuardInv.none_of_unavailable (h : GuardInv d r s) (hun : unavailable d s = true) (q : Nat) :
    requested d q s = false :=
  Bool.eq_false_iff.2 fun hreq => absurd hun (Bool.eq_false_iff.1 (h.free q hreq))

/-- A step of the direction's engine leaves the requests and the owner; an available engine is idle and
takes none. -/
theorem GuardInv.engineStep (h : GuardInv d r s) (hreq : requests d t = requests d s)
    (howner : ownerOf d t = ownerOf d s) (hidle : unavailable d s = false → t = s) :
    GuardInv d r t := by
  cases hun : unavailable d s with
  | false => exact hidle hun ▸ h
  | true =>
    refine guardInv_of_none (fun q => ?_) (howner.trans (h.owner hun))
    rw [requested, hreq]
    exact h.none_of_unavailable hun q

/-- Where a plain command starts nobody asks (R224). -/
theorem not_requested_of_plainStarts (h : plainStarts d s = true) (q : Nat) :
    requested d q s = false := by
  obtain ⟨_, _, hnone, _⟩ := (plainStarts_iff d s).1 h
  rw [requested, List.getD_eq_getElem?_getD]
  cases hget : (requests d s)[q]? with
  | none => rfl
  | some b => exact hnone b (List.mem_of_getElem? hget)

/-- A slot the requester may post on belongs to a direction that is available: the lock is held by
calls only, and a running call is the requester's (R217). -/
theorem GuardInv.available_of_post (h : GuardInv d r s) (hlocks : LockInv s)
    (hpost : slotBusy d r s = false) : unavailable d s = false := by
  obtain ⟨_, hcall⟩ := Bool.or_eq_false_iff.1 hpost
  have hlock : lockHeld d s = true → engineBusy d s = true := by
    cases d with
    | tx => exact fun hl => bne_iff_ne.2 (hlocks.tx.1 hl).1
    | rx => exact fun hl => bne_iff_ne.2 (hlocks.rx.1 hl).1
  refine Bool.eq_false_iff.2 fun hun => ?_
  have hbusy : engineBusy d s = true := (Bool.or_eq_true_iff.1 hun).elim hlock id
  rw [hbusy, h.owner hun, beq_self_eq_true] at hcall
  exact Bool.noConfusion hcall

/-- A post of the requester in a direction that is available (R217). -/
theorem GuardInv.post (h : GuardInv d r s) (havail : unavailable d s = false)
    (hreq : requests d t = (requests d s).set r true)
    (havail' : unavailable d t = unavailable d s) : GuardInv d r t where
  mine q hq := by
    by_contra hne
    rw [requested, hreq, List.getD_eq_getElem?_getD, List.getElem?_set_ne (Ne.symm hne),
      ← List.getD_eq_getElem?_getD] at hq
    exact hne (h.mine q hq)
  free _ _ := havail'.trans havail
  owner hun := absurd hun (Bool.eq_false_iff.1 (havail'.trans havail))

/-- A grant to the requester, the only one that asks (R217). -/
theorem GuardInv.grant (h : GuardInv d r s) (hq : requested d q s = true) (hg : Granted d q s t) :
    GuardInv d r t ∧ ∀ k, requested d k t = false := by
  have hnone (k : Nat) : requested d k t = false := by
    by_cases hk : q = k
    · exact hk ▸ hg.requested_self
    · refine (hg.requested_of_ne hk).trans (Bool.eq_false_iff.2 fun hreq => hk ?_)
      exact (h.mine q hq).trans (h.mine k hreq).symm
  exact ⟨guardInv_of_none hnone (hg.owner_eq.trans (h.mine q hq)), hnone⟩

/-- A grant leaves the other direction alone (R248). -/
theorem GuardInv.grant_other {d' : Dir} (h : GuardInv d' r s) (hg : Granted d q s t) (hd : d' ≠ d) :
    GuardInv d' r t := by
  obtain ⟨hreq, _, havail, howner⟩ := hg.other d' hd
  exact h.of_eq hreq havail howner

end

/-! ### The invariant of a run (R256) -/

/-- The decode posted and not yet granted is one the traffic allows. -/
def PostedFits (tr : Traffic) (s : State) : Prop :=
  ∀ q, requested .rx q s = true →
    FitsTraffic tr .slipmux (rxPortOf q s).cap (rxPortOf q s).stIn s

/-- What every atomic step keeps, whatever the traffic. -/
structure BlockInv (s : State) : Prop where
  stream : StreamInv s
  locks : LockInv s
  slots : SlotInv s

/-- What the traffic's steps keep beside it. -/
structure TrafficInv (tr : Traffic) (s : State) : Prop where
  fault : faultFree s = true
  decode : DecodeInv tr s
  encodeGuard : GuardInv .tx tr.txRequester s
  decodeGuard : GuardInv .rx tr.rxRequester s
  posted : PostedFits tr s

theorem AtomicStep.blockInv {edge : Option State} {s t : State} (h : AtomicStep edge s t)
    (hs : BlockInv s) : BlockInv t := by
  obtain ⟨htx, hrx⟩ := (lockInv_iff s).1 hs.locks
  exact {
    stream := ⟨h.queueInv hs.stream.queue, h.countInv hs.stream.count, h.rxInv hs.stream.rx⟩
    locks := (lockInv_iff t).2 ⟨h.txLockFits htx, h.rxLockFits hrx⟩
    slots := h.slotInv hs.slots }

section
variable {tr : Traffic} {s t : State}

/-- What the posted decode depends on. -/
theorem PostedFits.of_eq (h : PostedFits tr s) (hcfg : t.cfg = s.cfg)
    (hpops : t.ghost.pops = s.ghost.pops) (hreq : t.locks.rxReq = s.locks.rxReq)
    (hports : t.env.rxCmd = s.env.rxCmd) : PostedFits tr t := by
  intro q hq
  rw [requested, requests, hreq] at hq
  have hfits := h q hq
  simp only [FitsTraffic, Traffic.decodesNext, rxPortOf, hcfg, hpops, hports] at hfits ⊢
  exact hfits

theorem postedFits_of_none (h : ∀ q, requested .rx q t = false) : PostedFits tr t :=
  fun q hq => absurd hq (Bool.eq_false_iff.1 (h q))

/-! ### The engines' steps -/

theorem faultFree_of_faults_views (hfaults : t.faults = s.faults) (hviews : t.views = s.views)
    (h : faultFree s = true) : faultFree t = true :=
  (faultFree_of_eq hfaults (congrArg _ hviews) (congrArg _ hviews)).trans h

theorem unavailable_rx_of_eq (hrx : t.rx = s.rx) (hlock : t.locks.rxLock = s.locks.rxLock) :
    unavailable .rx t = unavailable .rx s := by
  simp only [unavailable, lockHeld, engineBusy, hrx, hlock]

theorem unavailable_tx_of_eq (htx : t.tx = s.tx) (hlock : t.locks.txLock = s.locks.txLock) :
    unavailable .tx t = unavailable .tx s := by
  simp only [unavailable, lockHeld, engineBusy, htx, hlock]

/-- The engine of an available direction is idle (R217, R218). -/
theorem idle_of_available {d : Dir} (h : unavailable d s = false) : engineBusy d s = false :=
  (Bool.or_eq_false_iff.1 h).2

theorem TrafficInv.txStep (h : TrafficInv tr s) : TrafficInv tr (txStep s) where
  fault := faultFree_of_faults_views (txStep_faults s) (txStep_views s) h.fault
  decode := h.decode.of_eq (txStep_rx s) (queueOf_txStep s)
  encodeGuard := by
    refine h.encodeGuard.engineStep (congrArg SlotPart.txReq (slotsOf_txStep s)) (txStep_owner s)
      fun hun => ?_
    have hidle : s.tx.state = .idle := bne_eq_false_iff_eq.1 (idle_of_available hun)
    rw [Machine.txStep, hidle]
  decodeGuard := by
    have hlock : (Machine.txStep s).locks.rxLock = s.locks.rxLock := by
      rcases txStep_locks_cases s with hl | hl <;> rw [hl]
    exact h.decodeGuard.of_eq (congrArg SlotPart.rxReq (slotsOf_txStep s))
      (unavailable_rx_of_eq (txStep_rx s) hlock) (congrArg RxRegs.owner (txStep_rx s))
  posted := h.posted.of_eq (txStep_cfg s) (congrArg QueuePart.pops (queueOf_txStep s))
    (congrArg SlotPart.rxReq (slotsOf_txStep s)) (congrArg Env.rxCmd (txStep_env s))

theorem TrafficInv.txRun (h : TrafficInv tr s) (n : Nat) : TrafficInv tr (txRun n s) := by
  induction n generalizing s with
  | zero => exact h
  | succ n ih =>
    refine ih ?_
    split
    · exact h.txStep
    · exact h

theorem TrafficInv.rxStep (h : TrafficInv tr s) (hs : StreamInv s)
    (hclean : ∀ p ∈ tr.packets, p.clean = true) : TrafficInv tr (rxStep s) := by
  by_cases hidle : s.rx.state = .idle
  · rwa [Machine.rxStep, hidle]
  obtain ⟨hdecode, hfaults⟩ := h.decode.rxStep hs hclean hidle
  have hun : unavailable .rx s = true := Bool.or_eq_true_iff.2 (.inr (bne_iff_ne.2 hidle))
  have hreq : requests .rx (Machine.rxStep s) = requests .rx s :=
    congrArg SlotPart.rxReq (slotsOf_rxStep s)
  exact {
    fault := faultFree_of_faults_views hfaults (rxStep_views s) h.fault
    decode := hdecode
    encodeGuard := h.encodeGuard.of_eq (congrArg SlotPart.txReq (slotsOf_rxStep s))
      (unavailable_tx_of_eq (rxStep_tx s) (rxStep_txLock s)) (congrArg TxRegs.owner (rxStep_tx s))
    decodeGuard := h.decodeGuard.engineStep hreq (congrArg SlotPart.rxOwner (slotsOf_rxStep s))
      fun hfree => absurd hun (Bool.eq_false_iff.1 hfree)
    posted := postedFits_of_none fun q => by
      rw [requested, hreq]
      exact h.decodeGuard.none_of_unavailable hun q }

/-! ### The guard's and the synchronisers' steps -/

/-- A cycle's end finds no request blocked and lets the counters stand (R218, R221). -/
theorem TrafficInv.clkTick (h : TrafficInv tr s) : TrafficInv tr (clkTick s) := by
  obtain ⟨hrun, _⟩ := (faultFree_iff s).1 h.fault
  have hnone (d : Dir) (k : Nat) : (d, k) ∉ blockedRequests s := fun hk => by
    obtain ⟨_, hblocked⟩ := mem_blockedRequests.1 hk
    cases d with
    | tx => exact absurd hblocked (Bool.eq_false_iff.1 (h.encodeGuard.not_blocked k))
    | rx => exact absurd hblocked (Bool.eq_false_iff.1 (h.decodeGuard.not_blocked k))
  rw [Machine.clkTick, clkTimer_of_none hrun fun d =>
    timesOut_eq_false_of fun k hk => absurd hk (hnone d k)]
  exact {
    fault := h.fault
    decode := h.decode.of_eq rfl rfl
    encodeGuard := h.encodeGuard.of_eq rfl rfl rfl
    decodeGuard := h.decodeGuard.of_eq rfl rfl rfl
    posted := h.posted.of_eq rfl rfl rfl rfl }

/-- A step that leaves the engines, the locks and the decode ports keeps what the guard and the posted
decode depend on. -/
theorem TrafficInv.of_decode (h : TrafficInv tr s) (hfault : faultFree t = true)
    (hdecode : DecodeInv tr t) (htx : t.tx = s.tx) (hrx : t.rx = s.rx) (hlocks : t.locks = s.locks)
    (hcfg : t.cfg = s.cfg) (hpops : t.ghost.pops = s.ghost.pops)
    (hports : t.env.rxCmd = s.env.rxCmd) : TrafficInv tr t where
  fault := hfault
  decode := hdecode
  encodeGuard := h.encodeGuard.of_eq (by simp only [requests, hlocks])
    (unavailable_tx_of_eq htx (congrArg _ hlocks)) (congrArg TxRegs.owner htx)
  decodeGuard := h.decodeGuard.of_eq (by simp only [requests, hlocks])
    (unavailable_rx_of_eq hrx (congrArg _ hlocks)) (congrArg RxRegs.owner hrx)
  posted := h.posted.of_eq hcfg hpops (congrArg _ hlocks) hports

/-- No fault is recorded where none is and none is learned. -/
theorem faultFree_iff_registers (s : State) : faultFree s = true ↔
    (s.faults.hfault = .none ∧ s.views.wfaultH = false) ∧
      s.faults.wfault = false ∧ s.views.hfaultW = false := by
  rw [faultFree_iff, hostHalted_eq_false_iff, writeHalted_eq_false_iff]

/-- The next byte of the traffic is enqueued, with room for it (R121). -/
theorem TrafficInv.ingestByte (h : TrafficInv tr s) (hs : StreamInv s) {b : Byte}
    (hfeeds : tr.feedsNext b s = true) : TrafficInv tr (ingestByte b s) := by
  obtain ⟨_, hrun⟩ := (faultFree_iff s).1 h.fault
  obtain ⟨hroom, hfed⟩ := Bool.and_eq_true_iff.1 hfeeds
  have hfull : fullW s = false := (Bool.not_eq_true' _).mp hroom
  rw [ingestByte_eq_pushCounted hrun hfull]
  exact h.of_decode h.fault
    (h.decode.pushCounted hs.queue (List.isPrefixOf_iff_prefix.1 hfed) _ b) rfl rfl rfl rfl rfl rfl

/-- Everything an operation that starts no command can do on a run over the traffic. -/
theorem TrafficInv.taken (h : TrafficInv tr s) (hs : StreamInv s)
    (hclean : ∀ p ∈ tr.packets, p.clean = true) {i : Instr} (hallow : tr.allows s i = true)
    (htaken : Taken i s t) : TrafficInv tr t := by
  obtain ⟨⟨hhfault, hseenH⟩, hwfault, hseenW⟩ := (faultFree_iff_registers s).1 h.fault
  cases htaken with
  | nothing => exact h
  | ingest b hi =>
    refine h.ingestByte hs ?_
    rcases hi with rfl | ⟨rfl, rfl⟩ | ⟨_, rfl⟩ <;> exact hallow
  | push b hi _ => subst hi; cases hallow
  | pop hi _ => subst hi; cases hallow
  | emit n _ => exact h.txRun n
  | decode _ => exact h.rxStep hs hclean
  | timeout d q hblocked _ =>
    cases d with
    | tx => exact absurd hblocked (Bool.eq_false_iff.1 (h.encodeGuard.not_blocked q))
    | rx => exact absurd hblocked (Bool.eq_false_iff.1 (h.decodeGuard.not_blocked q))
  | synW2r iw ic ha =>
    obtain ⟨_, _, hic, _⟩ := w2rAdmits_iff.1 ha
    exact h.of_decode h.fault (h.decode.viewsMove hic iw s.ghost.ir _) rfl rfl rfl rfl rfl rfl
  | synR2w ir _ =>
    exact h.of_decode h.fault (h.decode.viewsMove le_rfl s.ghost.iw ir _) rfl rfl rfl rfl rfl rfl
  | synFaultHost =>
    exact h.of_decode ((faultFree_iff_registers _).2 ⟨⟨hhfault, hwfault⟩, hwfault, hseenW⟩)
      (h.decode.of_eq rfl rfl) rfl rfl rfl rfl rfl rfl
  | synFaultWrite =>
    have hseen : (s.faults.hfault != .none) = false := bne_eq_false_iff_eq.2 hhfault
    exact h.of_decode ((faultFree_iff_registers _).2 ⟨⟨hhfault, hseenH⟩, hwfault, hseen⟩)
      (h.decode.of_eq rfl rfl) rfl rfl rfl rfl rfl rfl

end

end Sys2Proof.Machine
end

section
/-! The safety statement of spec/60_exceptions.md R256: every command the traffic allows keeps the
invariant of its runs, and so does every entry of the schedule. -/

namespace Sys2Proof.Machine

/- As in the tests: side by side these proofs take more threads than the check has memory for. -/
set_option Elab.async false

section
variable {tr : Traffic} {q cap : Nat} {st : DecodeState} {s t : State}

/-! ### The commands (R151, R161, R181, R196, R217) -/

theorem TrafficInv.markRefused (h : TrafficInv tr s) (d : Dir) (q : Nat) :
    TrafficInv tr (markRefused d q s) :=
  h.of_decode h.fault (h.decode.of_eq rfl rfl) rfl rfl rfl rfl rfl rfl

/-- A plain encode of the traffic's requester starts (R151). -/
theorem TrafficInv.startTx (h : TrafficInv tr s) (hstarts : plainStarts .tx s = true) (len : Nat)
    (p : List Byte) : TrafficInv tr
      (startTx .slip tr.txRequester 0#8 len (setTxPort tr.txRequester 0#8 len p s)) where
  fault := h.fault
  decode := h.decode.of_eq rfl rfl
  encodeGuard := guardInv_of_none (not_requested_of_plainStarts (s := s) hstarts) rfl
  decodeGuard := h.decodeGuard.of_eq rfl rfl rfl
  posted := h.posted.of_eq rfl rfl rfl rfl

/-- A SLIPMUX encode of the traffic's requester is posted (R217). -/
theorem TrafficInv.postTx (h : TrafficInv tr s) (hlocks : LockInv s)
    (hpost : slotBusy .tx tr.txRequester s = false) (ty : Byte) (len : Nat) (p : List Byte) :
    TrafficInv tr (setTxPort tr.txRequester ty len p
      { s with locks := setRequest .tx tr.txRequester true s.locks }) where
  fault := h.fault
  decode := h.decode.of_eq rfl rfl
  encodeGuard := h.encodeGuard.post (h.encodeGuard.available_of_post hlocks hpost) rfl rfl
  decodeGuard := h.decodeGuard.of_eq rfl rfl rfl
  posted := h.posted.of_eq rfl rfl rfl rfl

/-- A plain decode of the traffic's requester starts (R161). -/
theorem TrafficInv.startRx (h : TrafficInv tr s) (hs : StreamInv s)
    (hclean : ∀ p ∈ tr.packets, p.clean = true) (hstarts : plainStarts .rx s = true)
    (hfits : FitsTraffic tr .slip cap st s) :
    TrafficInv tr (startRx .slip tr.rxRequester cap st s) := by
  have hslots := slotsOf_startRx .slip tr.rxRequester cap st s
  have hidle : s.rx.state = .idle := bne_eq_false_iff_eq.1 ((plainStarts_iff .rx s).1 hstarts).1
  have hreq : requests .rx (Machine.startRx .slip tr.rxRequester cap st s) = requests .rx s :=
    congrArg SlotPart.rxReq hslots
  have hnone (q : Nat) : requested .rx q (Machine.startRx .slip tr.rxRequester cap st s) = false := by
    rw [requested, hreq]
    exact not_requested_of_plainStarts hstarts q
  exact {
    fault := faultFree_of_faults_views (startRx_faults _ _ _ _ _) (startRx_views _ _ _ _ _) h.fault
    decode := h.decode.startRx hs hclean hidle _ hfits
    encodeGuard := h.encodeGuard.of_eq (congrArg SlotPart.txReq hslots)
      (unavailable_tx_of_eq (startRx_tx _ _ _ _ _) (startRx_txLock _ _ _ _ _))
      (congrArg TxRegs.owner (startRx_tx _ _ _ _ _))
    decodeGuard := guardInv_of_none hnone (congrArg SlotPart.rxOwner hslots)
    posted := postedFits_of_none hnone }

/-- A SLIPMUX decode of the traffic's requester is posted, with what the traffic allows (R217). -/
theorem TrafficInv.postRx (h : TrafficInv tr s) (hb : BlockInv s) (hq : tr.rxRequester < s.cfg.nreq)
    (hpost : slotBusy .rx tr.rxRequester s = false) (hfits : FitsTraffic tr .slipmux cap st s) :
    TrafficInv tr (postedRx tr.rxRequester cap st s) := by
  have havail := h.decodeGuard.available_of_post hb.locks hpost
  have hguard : GuardInv .rx tr.rxRequester (postedRx tr.rxRequester cap st s) :=
    h.decodeGuard.post havail rfl rfl
  have hport : rxPortOf tr.rxRequester (postedRx tr.rxRequester cap st s) = ⟨cap, st⟩ :=
    rxPortOf_of_getElem? (List.getElem?_set_self (hb.slots.rxCmd_length ▸ hq))
  exact {
    fault := h.fault
    decode := h.decode.of_eq rfl rfl
    encodeGuard := h.encodeGuard.of_eq rfl rfl rfl
    decodeGuard := hguard
    posted := fun q hreq => by
      rw [hguard.mine q hreq, hport]
      exact hfits }

/-- The encode request of the traffic's requester is granted (R217, R181). -/
theorem TrafficInv.grantTx (h : TrafficInv tr s) (hreq : requested .tx q s = true) :
    TrafficInv tr (grantTx q s) where
  fault := h.fault
  decode := h.decode.of_eq rfl rfl
  encodeGuard := (h.encodeGuard.grant hreq (granted_grantTx q s)).1
  decodeGuard := h.decodeGuard.of_eq rfl rfl rfl
  posted := h.posted.of_eq rfl rfl rfl rfl

/-- The decode request of the traffic's requester is granted, and its call starts with what was posted
(R217, R196). -/
theorem TrafficInv.grantRx (h : TrafficInv tr s) (hs : StreamInv s)
    (hclean : ∀ p ∈ tr.packets, p.clean = true) (hreq : requested .rx q s = true) :
    TrafficInv tr (grantRx q s) := by
  have hg := granted_grantRx q s
  obtain ⟨hguard, hnone⟩ := h.decodeGuard.grant hreq hg
  have hidle : s.rx.state = .idle :=
    bne_eq_false_iff_eq.1 (idle_of_available (h.decodeGuard.free q hreq))
  have hdecode : DecodeInv tr
      { s with locks := { setRequest .rx q false s.locks with rxLock := true } } :=
    h.decode.of_eq rfl rfl
  exact {
    fault := faultFree_of_faults_views hg.faults_eq hg.views_eq h.fault
    decode := hdecode.startRx ⟨{ hs.queue with }, { hs.count with }, { hs.rx with }⟩ hclean hidle q
      (h.posted q hreq)
    encodeGuard := h.encodeGuard.grant_other hg Dir.noConfusion
    decodeGuard := hguard
    posted := postedFits_of_none hnone }

/-- Every post and every grant of a run over the traffic. -/
theorem TrafficInv.command (h : TrafficInv tr s) (hb : BlockInv s)
    (hclean : ∀ p ∈ tr.packets, p.clean = true) {i : Instr} (hi : startsCommand i = true)
    (hwf : i.wf s.cfg = true) (hallow : tr.allows s i = true) (hexec : exec i s = .next t) :
    TrafficInv tr t := by
  cases i <;> simp only [startsCommand, Bool.false_eq_true] at hi
  case slipEnc q len p =>
    obtain rfl : q = tr.txRequester := beq_iff_eq.1 hallow
    obtain ⟨_, hexec⟩ := withSlot_eq_next.1 hexec
    injection hexec with hexec; subst hexec
    split
    · exact h.startTx ‹_› len p
    · exact h.markRefused .tx _
  case smxEnc q ty len p =>
    obtain rfl : q = tr.txRequester := beq_iff_eq.1 hallow
    obtain ⟨_, rfl | ⟨_, hfree, rfl⟩⟩ := post_cases hexec
    · exact h
    · exact h.postTx hb.locks hfree ty len p
  case slipDec q cap =>
    simp only [Traffic.allows, Bool.and_eq_true, beq_iff_eq, decide_eq_true_eq] at hallow
    obtain ⟨⟨rfl, hcap⟩, _⟩ := hallow
    simp only [Instr.wf, fitsLw, Bool.and_eq_true, decide_eq_true_eq] at hwf
    obtain ⟨_, hexec⟩ := withSlot_eq_next.1 hexec
    injection hexec with hexec; subst hexec
    split
    · exact h.startRx hb.stream hclean ‹_› ⟨hcap, hwf.2, nofun⟩
    · exact h.markRefused .rx _
  case smxDec q cap st =>
    simp only [Traffic.allows, Bool.and_eq_true, beq_iff_eq, decide_eq_true_eq,
      Bool.not_eq_true'] at hallow
    obtain ⟨⟨⟨rfl, hcap⟩, htype⟩, hnext⟩ := hallow
    simp only [Instr.wf, fitsLw, Bool.and_eq_true, decide_eq_true_eq] at hwf
    obtain ⟨hq, rfl | ⟨_, hfree, rfl⟩⟩ := post_cases hexec
    · exact h
    · exact h.postRx hb hq hfree ⟨hcap, hwf.2, fun _ => ⟨htype, hnext⟩⟩
  case lockGrant d q =>
    obtain ⟨_, hexec⟩ := withSlot_eq_next.1 hexec
    injection hexec with hexec; subst hexec
    split
    · obtain ⟨hreq, _⟩ := grantable_iff.1 ‹grantable d q s = true›
      cases d with
      | tx => exact h.grantTx hreq
      | rx => exact h.grantRx hb.stream hclean hreq
    · exact h

/-! ### The runs (R256) -/

/-- Every operation the traffic allows keeps both invariants: it is no reset and no bare push, so it is a
chain of atomic steps. -/
theorem trafficInv_exec (h : BlockInv s ∧ TrafficInv tr s)
    (hclean : ∀ p ∈ tr.packets, p.clean = true) {i : Instr} (hwf : i.wf s.cfg = true)
    (hallow : tr.allows s i = true) (hexec : exec i s = .next t) : BlockInv t ∧ TrafficInv tr t := by
  obtain ⟨hb, h⟩ := h
  have hpush (b : Byte) : i ≠ .push b := fun hi => by subst hi; cases hallow
  have hreset (l : ResetLines) : i ≠ .reset l := fun hi => by subst hi; cases hallow
  refine ⟨exec_keeps BlockInv (fun _ _ hst hs => hst.blockInv hs) i s t hpush hreset hb hexec, ?_⟩
  cases hi : startsCommand i with
  | true => exact h.command hb hclean hi hwf hallow hexec
  | false => exact h.taken hb.stream hclean hallow (exec_taken hi hreset hexec)

/-- Every entry of the schedule that the traffic allows keeps both. -/
theorem trafficInv_runEvent (h : BlockInv s ∧ TrafficInv tr s)
    (hclean : ∀ p ∈ tr.packets, p.clean = true) {e : Event} (hallow : tr.allowsEvent s e = true)
    (hrun : runEvent e s = .next t) : BlockInv t ∧ TrafficInv tr t := by
  obtain ⟨hb, htr⟩ := h
  cases e with
  | op pw =>
    simp only [Traffic.allowsEvent] at hallow
    simp only [runEvent] at hrun
    cases hdecode : decode s.cfg pw with
    | ok i =>
      rw [hdecode] at hallow hrun
      exact trafficInv_exec ⟨hb, htr⟩ hclean (wf_and_encode_of_decode hdecode).1 hallow hrun
    | error why =>
      rw [hdecode] at hrun
      dsimp only at hrun
      split at hrun
      · injection hrun with hrun; exact hrun ▸ ⟨hb, htr⟩
      · cases hrun
  | cycle pws => cases hallow
  | tick =>
    injection hrun with hrun; subst hrun
    refine ⟨AtomicStep.blockInv (edge := none) (.tick s _ _ fun _ => ?_) hb, htr.clkTick⟩
    exact blocked_of_mem_blockedRequests
  | sinkReady ready =>
    injection hrun with hrun; subst hrun
    exact ⟨AtomicStep.blockInv (edge := none) (.inputs s s.env.script s.env.strobes ready) hb,
      htr.of_decode htr.fault (htr.decode.of_eq rfl rfl) rfl rfl rfl rfl rfl rfl⟩
  | payload q bytes =>
    obtain ⟨_, hrun⟩ := withSlot_eq_next.1 hrun
    injection hrun with hrun; subst hrun
    exact ⟨AtomicStep.blockInv (edge := none) (.payload s q bytes) hb,
      htr.of_decode htr.fault (htr.decode.of_eq rfl rfl) rfl rfl rfl rfl rfl rfl⟩

/-- After reset nobody asks, nothing is enqueued and no fault is recorded (R41). -/
theorem trafficInv_resetFor {c : Params} (hc : c.wf = true) :
    BlockInv (State.resetFor c (Env.reset c)) ∧
      TrafficInv tr (State.resetFor c (Env.reset c)) := by
  have hnone (d : Dir) (q : Nat) : requested d q (State.resetFor c (Env.reset c)) = false := by
    cases d <;> simp [requested, requests, State.resetFor, LockRegs.reset, List.getD_eq_getElem?_getD,
      List.getElem?_replicate] <;> split <;> rfl
  have hguard (d : Dir) (r : Nat) : GuardInv d r (State.resetFor c (Env.reset c)) := {
    mine := fun q hq => absurd hq (Bool.eq_false_iff.1 (hnone d q))
    free := fun q hq => absurd hq (Bool.eq_false_iff.1 (hnone d q))
    owner := by cases d <;> exact nofun }
  constructor
  · exact ⟨⟨queueInv_resetFor hc _, countInv_resetFor c _, rxInv_resetFor c _⟩, lockInv_resetFor c _,
      slotInv_resetFor hc List.length_replicate List.length_replicate⟩
  · exact {
      fault := rfl
      decode := {
        fed := List.nil_prefix
        consumed_eq := (Nat.zero_mod _).symm
        rest_ends := fun _ => .inl rfl
        rest_seen := fun _ => le_rfl
        in_call := fun hbusy => absurd rfl hbusy }
      encodeGuard := hguard .tx _
      decodeGuard := hguard .rx _
      posted := postedFits_of_none (hnone .rx) }

end

/-- Settles O60: the invariants hold after reset and every entry keeps them; they say that no fault is
recorded, and between calls they are R123. -/
theorem cleanTrafficNeverFaults : Obligations.CleanTrafficNeverFaults := by
  intro c tr t hc hclean hrun
  have hinv : BlockInv t ∧ TrafficInv tr t := by
    induction hrun with
    | start => exact trafficInv_resetFor hc
    | event e _ hallow hstep ih => exact trafficInv_runEvent ih hclean hallow hstep
  obtain ⟨hb, htr⟩ := hinv
  exact ⟨htr.fault, fun _ => htr.decode.countsPackets hb.stream⟩

end Sys2Proof.Machine
end
